-- ==== Sys2Proof/Word.lean ====
section
/-! DEFINITION. The word types of the block: 32-bit command words, 16-bit transfer values, bytes. Bit 0 is the least
significant bit of every value (00_scope R10) and every value is unsigned (R11). -/

namespace Sys2Proof

/-- A command word: a head word or an extension word (30_encoding R60). -/
abbrev Word := BitVec 32

/-- A value moved by one holding-register write (10_state R27). -/
abbrev Half := BitVec 16

/-- A byte of buffer memory, an IMM8, a divider (20_memory R40, 10_state R19). -/
abbrev Byte := BitVec 8

end Sys2Proof
end

