-- ==== Sys2Proof/Syntax.lean ====
section
/-! DEFINITION. The 22 commands of the drainer command set (30_encoding R67), as syntax: one constructor for each row of
spec/opcode_table.json, with the operands of R63 at the widths of R62. -/

namespace Sys2Proof

/-- The two pins the block drives (10_state R31); PSEL selects one (30_encoding R63). -/
inductive Pin where
  | data
  | clk
  deriving DecidableEq, Repr

/-- The six legal values of ORDER (30_encoding R64). The block passes the order to the PixelSource uninterpreted. -/
inductive ColorOrder where
  | rgb
  | rbg
  | grb
  | gbr
  | brg
  | bgr
  deriving DecidableEq, Repr

/-- The operands of `wpix` (46_pixel_stream R130, 30_encoding R63). -/
structure PixArgs where
  /-- TSEL, the transform's index. -/
  tsel : BitVec 3
  /-- SBF, the source's `startBitFlag`. -/
  sbf : Bool
  /-- ADV, passed to the PixelSource. -/
  adv : Bool
  /-- ORDER, passed to the PixelSource. -/
  order : ColorOrder
  /-- SKIP, raw bytes skipped after each triplet. -/
  skip : Byte
  /-- SCALE, passed to the PixelSource. -/
  scale : Byte
  /-- ADDR, the window's first address. -/
  addr : Word
  /-- LEN, the window's raw-byte count. -/
  len : Word
  /-- FBIDX, the framing bit's index. -/
  fbidx : BitVec 3
  /-- FBYTE, the framing bit's byte. -/
  fbyte : Byte
  deriving DecidableEq, Repr

/-- The commands. The S-class ones come first, then the P-class ones, each in opcode order (30_encoding R67). -/
inductive Instr where
  | init
  | sel
  | rel
  | wbyte (imm : Byte)
  | wword (imm : Half)
  | widle
  | wrep (imm : Byte) (count : Word)
  | wbv (imm : Byte) (count : Word)
  | wseq (tsel : BitVec 3) (addr len : Word)
  | wbit (imm : Byte) (bidx : BitVec 3)
  | wpix (a : PixArgs)
  | pSpintxe
  | pSpinidle
  | pCfg (w16 : Bool) (div : Byte)
  | pWtdr (imm : Half)
  | pEn
  | pDis
  | pUnlock
  | pMaster
  | pPinout (p : Pin)
  | pPinhi (p : Pin)
  | pPinlo (p : Pin)
  deriving DecidableEq, Repr

/-- The opcode of a command, `CW[31:24]` (30_encoding R67). -/
def Instr.opcode : Instr → Byte
  | .init => 0x01#8
  | .sel => 0x02#8
  | .rel => 0x03#8
  | .wbyte _ => 0x04#8
  | .wword _ => 0x05#8
  | .widle => 0x06#8
  | .wrep _ _ => 0x07#8
  | .wbv _ _ => 0x08#8
  | .wseq _ _ _ => 0x09#8
  | .wbit _ _ => 0x0A#8
  | .wpix _ => 0x0B#8
  | .pSpintxe => 0x80#8
  | .pSpinidle => 0x81#8
  | .pCfg _ _ => 0x82#8
  | .pWtdr _ => 0x83#8
  | .pEn => 0x84#8
  | .pDis => 0x85#8
  | .pUnlock => 0x86#8
  | .pMaster => 0x87#8
  | .pPinout _ => 0x88#8
  | .pPinhi _ => 0x89#8
  | .pPinlo _ => 0x8A#8

/-- `n_ext`: the number of extension words of a command (30_encoding R65): RPT 1, SEQ 2, PIX 3, every other format 0. -/
def Instr.nExt : Instr → Nat
  | .wrep _ _ => 1
  | .wbv _ _ => 1
  | .wseq _ _ _ => 2
  | .wpix _ => 3
  | .init => 0
  | .sel => 0
  | .rel => 0
  | .wbyte _ => 0
  | .wword _ => 0
  | .widle => 0
  | .wbit _ _ => 0
  | .pSpintxe => 0
  | .pSpinidle => 0
  | .pCfg _ _ => 0
  | .pWtdr _ => 0
  | .pEn => 0
  | .pDis => 0
  | .pUnlock => 0
  | .pMaster => 0
  | .pPinout _ => 0
  | .pPinhi _ => 0
  | .pPinlo _ => 0

/-- S-class: opcode bit 7 is 0 (30_encoding R61). -/
def Instr.isSClass (i : Instr) : Bool := !i.opcode.getLsbD 7

end Sys2Proof
end

