-- ==== Sys2Proof/WellFormed.lean ====
section
/-! DEFINITION. Which commands as syntax are legal. The types of the fields rule out every illegal value but one: the
divider 0 of `p.cfg` (30_encoding R70). The other value check of R70, ORDER 6 and 7, has no term: `ColorOrder` has six
constructors. -/

namespace Sys2Proof

/-- A command every field of which has a legal value (30_encoding R70: a divider is 1..255). -/
def Instr.wellFormed : Instr → Bool
  | .pCfg _ div => div != 0#8
  | .init => true
  | .sel => true
  | .rel => true
  | .wbyte _ => true
  | .wword _ => true
  | .widle => true
  | .wbit _ _ => true
  | .pSpintxe => true
  | .pSpinidle => true
  | .pWtdr _ => true
  | .pEn => true
  | .pDis => true
  | .pUnlock => true
  | .pMaster => true
  | .pPinout _ => true
  | .pPinhi _ => true
  | .pPinlo _ => true
  | .wrep _ _ => true
  | .wbv _ _ => true
  | .wseq _ _ _ => true
  | .wpix _ => true

end Sys2Proof
end

