-- ==== Sys2Proof/Decode.lean ====
section
/-! DEFINITION. The decoder and the encoder, both from the formats of 30_encoding R62 and the opcode map of R67. The decoder
is total over every list of words and rejects by name, in the order of 60_exceptions R138. -/

namespace Sys2Proof

/-- Why a word list is no command. All but `noWord` and `truncated` become ILLEGAL_COMMAND (60_exceptions R135). -/
inductive DecodeError where
  /-- The list is empty: there is no head word. -/
  | noWord
  /-- An opcode outside R67 (30_encoding R68). -/
  | illegalOpcode
  /-- A reserved-zero bit of the head word is 1 (30_encoding R69). -/
  | reservedBits
  /-- `p.cfg` with DIV = 0, or `wpix` with ORDER 6 or 7 (30_encoding R70). -/
  | illegalValue
  /-- An extension word lies beyond the end of the stream (30_encoding R66). -/
  | truncated
  /-- `EXT3[31:11]` of `wpix` is not 0 (30_encoding R69). -/
  | reservedExt3
  deriving DecidableEq, Repr

/-- The nine formats (30_encoding R62). -/
inductive Format where
  | n
  | v8
  | v16
  | cfg
  | pin
  | bit
  | rpt
  | seq
  | pix
  deriving DecidableEq, Repr

/-- The format of a legal opcode, none for the 234 others (30_encoding R67, R68). -/
def formatOf (opc : Byte) : Option Format :=
  match opc with
  | 0x01#8 => some .n
  | 0x02#8 => some .n
  | 0x03#8 => some .n
  | 0x04#8 => some .v8
  | 0x05#8 => some .v16
  | 0x06#8 => some .n
  | 0x07#8 => some .rpt
  | 0x08#8 => some .rpt
  | 0x09#8 => some .seq
  | 0x0A#8 => some .bit
  | 0x0B#8 => some .pix
  | 0x80#8 => some .n
  | 0x81#8 => some .n
  | 0x82#8 => some .cfg
  | 0x83#8 => some .v16
  | 0x84#8 => some .n
  | 0x85#8 => some .n
  | 0x86#8 => some .n
  | 0x87#8 => some .n
  | 0x88#8 => some .pin
  | 0x89#8 => some .pin
  | 0x8A#8 => some .pin
  | _ => none

/-- `n_ext` of a format (30_encoding R65). -/
def formatExt : Format → Nat
  | .rpt => 1
  | .seq => 2
  | .pix => 3
  | .n => 0
  | .v8 => 0
  | .v16 => 0
  | .cfg => 0
  | .pin => 0
  | .bit => 0

/-- The reserved-zero field of a format's head word is all zero (30_encoding R62). -/
def reservedZero (f : Format) (cw : Word) : Bool :=
  match f with
  | .n => cw.extractLsb' 0 24 == 0#24
  | .v8 => cw.extractLsb' 8 16 == 0#16
  | .v16 => cw.extractLsb' 16 8 == 0#8
  | .cfg => cw.extractLsb' 9 15 == 0#15
  | .pin => cw.extractLsb' 1 23 == 0#23
  | .bit => cw.extractLsb' 11 13 == 0#13
  | .rpt => cw.extractLsb' 8 16 == 0#16
  | .seq => cw.extractLsb' 0 21 == 0#21
  | .pix => true

/-- The colour order of an ORDER field (30_encoding R64); 6 and 7 name none. -/
def orderOfBits (b : BitVec 3) : Option ColorOrder :=
  match b with
  | 0#3 => some .rgb
  | 1#3 => some .rbg
  | 2#3 => some .grb
  | 3#3 => some .gbr
  | 4#3 => some .brg
  | 5#3 => some .bgr
  | _ => none

/-- The ORDER field of a colour order (30_encoding R64). -/
def orderBits : ColorOrder → BitVec 3
  | .rgb => 0#3
  | .rbg => 1#3
  | .grb => 2#3
  | .gbr => 3#3
  | .brg => 4#3
  | .bgr => 5#3

/-- IMM8 and DIV, `CW[7:0]` (30_encoding R63). -/
def fieldImm8 (cw : Word) : Byte := cw.extractLsb' 0 8

/-- IMM16, `CW[15:0]` (30_encoding R63). -/
def fieldImm16 (cw : Word) : Half := cw.extractLsb' 0 16

/-- The pin PSEL names: DATA for 0, CLK for 1 (30_encoding R63). -/
def fieldPin (cw : Word) : Pin := if cw.getLsbD 0 then .clk else .data

/-- TSEL, `CW[23:21]` (30_encoding R63). -/
def fieldTsel (cw : Word) : BitVec 3 := cw.extractLsb' 21 3

/-- The value checks of 30_encoding R70 on a head word of format `f`. -/
def valuesLegal (f : Format) (cw : Word) : Bool :=
  match f with
  | .cfg => fieldImm8 cw != 0#8
  | .pix => (orderOfBits (cw.extractLsb' 16 3)).isSome
  | _ => true

/-- The command that an opcode, its head word and its extension words spell, where the head word has passed its checks
(30_encoding R63). -/
def buildInstr (opc : Byte) (cw e1 e2 e3 : Word) : Option Instr :=
  match opc with
  | 0x01#8 => some .init
  | 0x02#8 => some .sel
  | 0x03#8 => some .rel
  | 0x04#8 => some (.wbyte (fieldImm8 cw))
  | 0x05#8 => some (.wword (fieldImm16 cw))
  | 0x06#8 => some .widle
  | 0x07#8 => some (.wrep (fieldImm8 cw) e1)
  | 0x08#8 => some (.wbv (fieldImm8 cw) e1)
  | 0x09#8 => some (.wseq (fieldTsel cw) e1 e2)
  | 0x0A#8 => some (.wbit (fieldImm8 cw) (cw.extractLsb' 8 3))
  | 0x0B#8 =>
    (orderOfBits (cw.extractLsb' 16 3)).map fun order => .wpix
      { tsel := fieldTsel cw, sbf := cw.getLsbD 20, adv := cw.getLsbD 19, order := order,
        skip := cw.extractLsb' 8 8, scale := fieldImm8 cw, addr := e1, len := e2,
        fbidx := e3.extractLsb' 8 3, fbyte := e3.extractLsb' 0 8 }
  | 0x80#8 => some .pSpintxe
  | 0x81#8 => some .pSpinidle
  | 0x82#8 => some (.pCfg (cw.getLsbD 8) (fieldImm8 cw))
  | 0x83#8 => some (.pWtdr (fieldImm16 cw))
  | 0x84#8 => some .pEn
  | 0x85#8 => some .pDis
  | 0x86#8 => some .pUnlock
  | 0x87#8 => some .pMaster
  | 0x88#8 => some (.pPinout (fieldPin cw))
  | 0x89#8 => some (.pPinhi (fieldPin cw))
  | 0x8A#8 => some (.pPinlo (fieldPin cw))
  | _ => none

/-- The checks on a head word alone, in the order of 60_exceptions R138 step 1: the format, or the reason it is illegal
(30_encoding R68, R69, R70). -/
def decodeHead (cw : Word) : Except DecodeError Format :=
  match formatOf (cw.extractLsb' 24 8) with
  | none => .error .illegalOpcode
  | some f =>
    if reservedZero f cw = false then .error .reservedBits
    else if valuesLegal f cw = false then .error .illegalValue
    else .ok f

/-- The command at the front of a word list, or the first reason of 60_exceptions R138 steps 1 to 3 why there is none.
Words after the command are not looked at. -/
def decode (ws : List Word) : Except DecodeError Instr :=
  match ws with
  | [] => .error .noWord
  | cw :: ext =>
    match decodeHead cw with
    | .error e => .error e
    | .ok f =>
      if ext.length < formatExt f then .error .truncated
      else if f = .pix ∧ (ext.getD 2 0#32).extractLsb' 11 21 ≠ 0#21 then .error .reservedExt3
      else
        match buildInstr (cw.extractLsb' 24 8) cw (ext.getD 0 0#32) (ext.getD 1 0#32) (ext.getD 2 0#32) with
        | some i => .ok i
        | none => .error .illegalOpcode

/-- The 1-bit field of a Boolean. -/
def bitField (b : Bool) : BitVec 1 := BitVec.ofBool b

/-- PSEL of a pin (30_encoding R63). -/
def pinBit : Pin → BitVec 1
  | .data => 0#1
  | .clk => 1#1

/-- The head word of a command: its fields concatenated from the most significant one down (30_encoding R62). -/
def encodeHead (i : Instr) : Word :=
  match i with
  | .wbyte b => i.opcode ++ 0#16 ++ b
  | .wword w => i.opcode ++ 0#8 ++ w
  | .wrep b _ => i.opcode ++ 0#16 ++ b
  | .wbv b _ => i.opcode ++ 0#16 ++ b
  | .wseq t _ _ => i.opcode ++ t ++ 0#21
  | .wbit b x => i.opcode ++ 0#13 ++ x ++ b
  | .wpix a =>
    i.opcode ++ a.tsel ++ bitField a.sbf ++ bitField a.adv ++ orderBits a.order ++ a.skip ++ a.scale
  | .pCfg w d => i.opcode ++ 0#15 ++ bitField w ++ d
  | .pWtdr w => i.opcode ++ 0#8 ++ w
  | .pPinout p => i.opcode ++ 0#23 ++ pinBit p
  | .pPinhi p => i.opcode ++ 0#23 ++ pinBit p
  | .pPinlo p => i.opcode ++ 0#23 ++ pinBit p
  | .init => i.opcode ++ 0#24
  | .sel => i.opcode ++ 0#24
  | .rel => i.opcode ++ 0#24
  | .widle => i.opcode ++ 0#24
  | .pSpintxe => i.opcode ++ 0#24
  | .pSpinidle => i.opcode ++ 0#24
  | .pEn => i.opcode ++ 0#24
  | .pDis => i.opcode ++ 0#24
  | .pUnlock => i.opcode ++ 0#24
  | .pMaster => i.opcode ++ 0#24

/-- The extension words of a command (30_encoding R62). -/
def encodeExt : Instr → List Word
  | .wrep _ n => [n]
  | .wbv _ n => [n]
  | .wseq _ a n => [a, n]
  | .wpix a => [a.addr, a.len, 0#21 ++ a.fbidx ++ a.fbyte]
  | .init => []
  | .sel => []
  | .rel => []
  | .wbyte _ => []
  | .wword _ => []
  | .widle => []
  | .wbit _ _ => []
  | .pSpintxe => []
  | .pSpinidle => []
  | .pCfg _ _ => []
  | .pWtdr _ => []
  | .pEn => []
  | .pDis => []
  | .pUnlock => []
  | .pMaster => []
  | .pPinout _ => []
  | .pPinhi _ => []
  | .pPinlo _ => []

/-- The words of a command. -/
def encode (i : Instr) : List Word := encodeHead i :: encodeExt i

/-- One row of the opcode map: head words `CW` with `CW &&& mask = pattern` select it (30_encoding R67). -/
structure OpcodeRow where
  mnemonic : String
  mask : Word
  pattern : Word
  nExt : Nat
  deriving DecidableEq, Repr

/-- The S-class rows of 30_encoding R67. -/
def opcodeRowsS : List OpcodeRow :=
  [⟨"init", 0xFFFFFFFF#32, 0x01000000#32, 0⟩, ⟨"sel", 0xFFFFFFFF#32, 0x02000000#32, 0⟩,
   ⟨"rel", 0xFFFFFFFF#32, 0x03000000#32, 0⟩, ⟨"wbyte", 0xFFFFFF00#32, 0x04000000#32, 0⟩,
   ⟨"wword", 0xFFFF0000#32, 0x05000000#32, 0⟩, ⟨"widle", 0xFFFFFFFF#32, 0x06000000#32, 0⟩,
   ⟨"wrep", 0xFFFFFF00#32, 0x07000000#32, 1⟩, ⟨"wbv", 0xFFFFFF00#32, 0x08000000#32, 1⟩,
   ⟨"wseq", 0xFF1FFFFF#32, 0x09000000#32, 2⟩, ⟨"wbit", 0xFFFFF800#32, 0x0A000000#32, 0⟩,
   ⟨"wpix", 0xFF000000#32, 0x0B000000#32, 3⟩]

/-- The P-class rows of 30_encoding R67. -/
def opcodeRowsP : List OpcodeRow :=
  [⟨"p.spintxe", 0xFFFFFFFF#32, 0x80000000#32, 0⟩, ⟨"p.spinidle", 0xFFFFFFFF#32, 0x81000000#32, 0⟩,
   ⟨"p.cfg", 0xFFFFFE00#32, 0x82000000#32, 0⟩, ⟨"p.wtdr", 0xFFFF0000#32, 0x83000000#32, 0⟩,
   ⟨"p.en", 0xFFFFFFFF#32, 0x84000000#32, 0⟩, ⟨"p.dis", 0xFFFFFFFF#32, 0x85000000#32, 0⟩,
   ⟨"p.unlock", 0xFFFFFFFF#32, 0x86000000#32, 0⟩, ⟨"p.master", 0xFFFFFFFF#32, 0x87000000#32, 0⟩,
   ⟨"p.pinout", 0xFFFFFFFE#32, 0x88000000#32, 0⟩, ⟨"p.pinhi", 0xFFFFFFFE#32, 0x89000000#32, 0⟩,
   ⟨"p.pinlo", 0xFFFFFFFE#32, 0x8A000000#32, 0⟩]

/-- The opcode map as the spec's mask and match table (30_encoding R67), beside the decoder above; it is data for
statements, the decoder does not read it. -/
def opcodeRows : List OpcodeRow := opcodeRowsS ++ opcodeRowsP

/-- A head word selects a row. -/
def OpcodeRow.selects (r : OpcodeRow) (cw : Word) : Bool := cw &&& r.mask == r.pattern

/-- The four words that an `nbits`-bit number lays out, the first word least significant, every bit at or above `nbits`
zero. Command words have no byte order (20_memory R45). -/
def tableWords (nbits w : Nat) : List Word :=
  let v := w % 2 ^ nbits
  [BitVec.ofNat 32 v, BitVec.ofNat 32 (v / 2 ^ 32), BitVec.ofNat 32 (v / 2 ^ 64), BitVec.ofNat 32 (v / 2 ^ 96)]

/-- The instruction the decoder reads from the bits `w` of an opcode-table row, extension words of zeros above them. -/
def decodeTableWord (nbits w : Nat) : Option Instr :=
  match decode (tableWords nbits w) with
  | .ok i => some i
  | .error _ => none

end Sys2Proof
end

