-- ==== Sys2Proof/Config.lean ====
section
/-! DEFINITION. The implementation parameters of 00_scope R5, the external collaborators of R8 and R9, and the free values
of the spec (draws, the scheduling choice). Each is an opaque constant without a body: no proof can see its value, so a
claim holds for every value. -/

namespace Sys2Proof.Config

/-- Free: `DIV_T - 1`, a number 0..254, so that `DIV_T` ranges over exactly 1..255. -/
opaque divTPred : Fin 255

/-- `DIV_T`, the transport's clock divider, 1..255 (00_scope R5). -/
def divT : Byte := BitVec.ofNat 8 (divTPred.val + 1)

/-- `GUARD_PRESENT`: whether a SelectGuard is bound (00_scope R5, 60_exceptions R148). -/
opaque guardPresent : Bool

/-- `ENGINE_FAIR`: whether the shift engine is live (00_scope R5, 40_execution R79). -/
opaque engineFair : Bool

/-- `F_PCLK`, the peripheral clock, a positive real number of Hz; timing only, no step depends on it (00_scope R5, 70_reset
R171). -/
noncomputable opaque fPclk : {hz : ℝ // 0 < hz}

/-- `DATA_PIN` and `CLOCK_PIN`: which GPIO pin plays which role; only the roles matter (00_scope R5). -/
opaque pinId : Pin → Nat

/-- `TRANSFORMS[t].adjust` for `t` other than 0 (00_scope R8). -/
opaque adjustTable : BitVec 3 → Byte → Byte

/-- `TRANSFORMS[t].postBlock` for `t` other than 0 (00_scope R8). -/
opaque postBlockTable : BitVec 3 → Nat → List Byte

/-- `TRANSFORMS[t].adjust`; entry 0 is the identity (00_scope R8). -/
def adjust (t : BitVec 3) (b : Byte) : Byte := if t = 0#3 then b else adjustTable t b

/-- `TRANSFORMS[t].postBlock`; entry 0 queues nothing (00_scope R8). -/
def postBlock (t : BitVec 3) (n : Nat) : List Byte := if t = 0#3 then [] else postBlockTable t n

/-- `PS_STATE`, the PixelSource's state (00_scope R9). DESIGN CHOICE (log 10): a natural number, into which every state
of finitely many bits can be coded. -/
abbrev PsState := Nat

/-- `ps_init(window, scale, order, dither, advance, skip)` (00_scope R9). -/
opaque psInit : List Byte → Byte → ColorOrder → Bool → Bool → Byte → PsState

/-- `ps_ch0` (00_scope R9). -/
opaque psCh0 : PsState → Byte

/-- `ps_ch1` (00_scope R9). -/
opaque psCh1 : PsState → Byte

/-- `ps_ch2` (00_scope R9). -/
opaque psCh2 : PsState → Byte

/-- `ps_advance` (00_scope R9). -/
opaque psAdvance : PsState → PsState

/-- `ps_stepDithering` (00_scope R9). -/
opaque psStepDithering : PsState → PsState

/-- The free values of `draw() : bit` (00_scope R12, 40_execution R100), in the order they are drawn (log 3). -/
opaque drawBit : Nat → Bool

/-- The free scheduling choices of 40_execution R78, in the order they are made: true is SHE (log 1). -/
opaque schedule : Nat → Bool

/-- Reset draw of `CTRL.W16` (10_state R38, log 4). -/
opaque resetW16 : Bool

/-- Reset draw of `CTRL.DIV`, 0..255 (10_state R38, log 4). -/
opaque resetDiv : Byte

/-- Reset draw of `PDATA` (10_state R38, log 4). -/
opaque resetPdata : Bool

/-- Reset draw of `LAT[DATA]` (10_state R38, log 4). -/
opaque resetLatData : Bool

/-- Reset draw of `LAT[CLK]` (10_state R38, log 4). -/
opaque resetLatClk : Bool

/-- Reset draw of `CS` where a guard is bound: true is Asserted (10_state R38, log 4). -/
opaque resetCsAsserted : Bool

/-- `FAULT_CP` after reset, unspecified (10_state R38, log 5). -/
opaque resetFaultCp : Nat

/-- `FAULT_WORD` after reset, unspecified (10_state R38, log 5). -/
opaque resetFaultWord : Word

end Sys2Proof.Config
end

