-- ==== Sys2Proof/Machine/State.lean ====
section
/-! DEFINITION. The architectural state of the block (10_state), as plain data: sequencer, control, shift engine, pins,
chip select, traces, and what the host supplied at launch. -/

namespace Sys2Proof.Machine

/-- Why a step of the model has no next state. None of these is a fault of the block: the block's own faults (60_exceptions
R135) are next states with `FAULT` set. All are safe (log 13). -/
inductive Fault where
  /-- Raised by `step` in a final state: neither agent has a step (40_execution R105). Safe. -/
  | runFinal
  /-- Raised by `step` where `FAULT` is nonzero and SHE has no step: the run has ended faulted (R105). Safe. -/
  | runFaulted
  /-- Raised by `wseq` and `wpix`: a MemRead of an address the launch memory does not admit gives SEQ no step
  (20_memory R40); `step` raises it when SHE has no step either, the spec's stuck state (R105). Safe. -/
  | memReadBlocked
  /-- Raised by `step` where no agent has a step and the state is neither final nor faulted nor blocked on a read; no run
  from reset reaches such a state (40_execution R101, R105). Safe. -/
  | stuckOtherwise
  deriving DecidableEq, Repr

/-- Why the model gives an instruction no meaning. No meaning of this model answers so. -/
inductive Refusal where
  /-- Raised by `exec` for a command without a meaning; no arm does. Safe. -/
  | notModelled (mnemonic : String)
  deriving DecidableEq, Repr

/-- The block's fault codes 1 to 13 (60_exceptions R135). -/
inductive FaultCode where
  | illegalCommand
  | truncatedCommand
  | notInitialised
  | reinit
  | cfgLocked
  | cfgWhilePending
  | disableWhileBusy
  | writeWhileDisabled
  | overrun
  | pinConflict
  | illegalOperand
  | addressRange
  | partialPixel
  deriving DecidableEq, Repr

/-- The agents that take steps (40_execution R76). -/
inductive Agent where
  | seq
  | she
  deriving DecidableEq, Repr

/-- Chip select (10_state R34). -/
inductive CsLevel where
  | asserted
  | released
  deriving DecidableEq, Repr

/-- What raised a clock edge (10_state R36). -/
inductive Origin where
  | hw
  | manual
  | mux
  deriving DecidableEq, Repr

/-- A wire level: 0, 1 or Z (10_state R33). -/
inductive Level where
  | low
  | high
  | hiZ
  deriving DecidableEq, Repr

/-- An event of the register trace (10_state R35). -/
inductive REvent where
  | poll (txe idle : Bool)
  | cfg (w16 : Bool) (div : Byte)
  | queue (v : Half) (w16 : Bool)
  | enable
  | disable
  | unlock
  | master
  | pinOut (p : Pin)
  | pinHigh (p : Pin)
  | pinLow (p : Pin)
  | select
  | release
  | postBlock (n : Nat)
  | fault (code : FaultCode)
  deriving DecidableEq, Repr

/-- An event of the wire trace (10_state R36); `div` is none for `manual` and `mux` edges. -/
inductive WEvent where
  | cs (level : CsLevel)
  | edge (b : Bool) (cs : CsLevel) (origin : Origin) (div : Option Byte)
  | glitch (cs : CsLevel)
  deriving DecidableEq, Repr

/-- The contents of the holding register: the value, with the width and divider captured at the write (10_state R27). -/
structure TxWord where
  v : Half
  w16 : Bool
  div : Byte
  deriving DecidableEq, Repr

/-- The contents of the shift register; `k` bits are still to be shifted (10_state R28). -/
structure ShiftWord where
  v : Half
  w16 : Bool
  div : Byte
  k : Nat
  deriving DecidableEq, Repr

/-- The loop state of a running command (10_state R16): the loop index, the remaining count, the PixelSource state, the
pending post-block bytes. -/
structure Locals where
  i : Nat
  rem : Nat
  sigma : Config.PsState
  post : List Byte
  deriving DecidableEq, Repr

/-- `PHASE` (10_state R16). `k` is a position in the command's micro-program, numbered as the command's program in
Machine/ numbers it (log 16). -/
inductive Phase where
  | idle
  | running (cmd : Instr) (k : Nat) (locals : Locals)
  deriving DecidableEq, Repr

/-- The state of the block. -/
structure State where
  /-- The command stream, supplied at launch (30_encoding R60). -/
  stream : List Word
  /-- The launch memory: the admitted addresses and their bytes (20_memory R40). -/
  mem : List Host.Cell
  /-- `CP` (R15). -/
  cp : Nat
  /-- `PHASE` (R16). -/
  phase : Phase
  /-- `INIT_DONE` (R17). -/
  initDone : Bool
  /-- `FAULT` (R18); none is code 0. -/
  fault : Option FaultCode
  /-- `FAULT_CP` (R18). -/
  faultCp : Nat
  /-- `FAULT_WORD` (R18). -/
  faultWord : Word
  /-- `CTRL.EN` (R20). -/
  en : Bool
  /-- `CTRL.MSTR` (R21). -/
  mstr : Bool
  /-- `CTRL.W16` (R22). -/
  w16 : Bool
  /-- `CTRL.DIV` (R23). -/
  div : Byte
  /-- `LOCK.UNLOCKED` (R24). -/
  unlocked : Bool
  /-- `TXH` (R27). -/
  txh : Option TxWord
  /-- `SR` (R28). -/
  sr : Option ShiftWord
  /-- `PDATA` (R29). -/
  pdata : Bool
  /-- `DIR[DATA]`: true is output (R31). -/
  dirData : Bool
  /-- `DIR[CLK]` (R31). -/
  dirClk : Bool
  /-- `LAT[DATA]` (R32). -/
  latData : Bool
  /-- `LAT[CLK]` (R32). -/
  latClk : Bool
  /-- `CS` (R34). -/
  cs : CsLevel
  /-- `RTRACE`, oldest event first (R35). -/
  rtrace : List REvent
  /-- `WTRACE`, oldest event first (R36). -/
  wtrace : List WEvent
  /-- The model's own: the agent that moves when both have a step (40_execution R78, log 1). -/
  turn : Agent
  /-- The model's own: index of the next free scheduling choice (log 1). -/
  schedIx : Nat
  /-- The model's own: index of the next free bit of `draw()` (log 3). -/
  drawIx : Nat
  deriving DecidableEq, Repr

/-- The state after reset (10_state R38, 70_reset R153): fixed values as the table gives them, its draws as the free
constants of Config (logs 4, 5), nothing launched yet (logs 7, 8), the model's own fields as log 6 says. -/
def State.reset : State where
  stream := []
  mem := []
  cp := 0
  phase := .idle
  initDone := false
  fault := none
  faultCp := Config.resetFaultCp
  faultWord := Config.resetFaultWord
  en := false
  mstr := false
  w16 := Config.resetW16
  div := Config.resetDiv
  unlocked := false
  txh := none
  sr := none
  pdata := Config.resetPdata
  dirData := false
  dirClk := false
  latData := Config.resetLatData
  latClk := Config.resetLatClk
  cs := if Config.guardPresent && !Config.resetCsAsserted then .released else .asserted
  rtrace := []
  wtrace := []
  turn := .seq
  schedIx := 0
  drawIx := 0

end Sys2Proof.Machine
end

