-- ==== Sys2Proof/Machine/Flags.lean ====
section
/-! DEFINITION. What the block derives from its state: the STATUS flags, the register views, the wire levels and the event
a clock transition records (10_state R19, R25, R33, 40_execution R100). -/

namespace Sys2Proof.Machine

/-- `STATUS.TXE`: the holding register is empty (10_state R25). -/
def State.txe (s : State) : Bool := s.txh.isNone

/-- `STATUS.IDLE`: holding register and shift register are both empty, full drain (10_state R25). -/
def State.idle (s : State) : Bool := s.txh.isNone && s.sr.isNone

/-- STATUS as bits `IDLE :: TXE` (10_state R25). -/
def State.status (s : State) : BitVec 2 := BitVec.ofBool s.idle ++ BitVec.ofBool s.txe

/-- CTRL as a 16-bit register: DIV in 15:8, reserved 7:3 zero, W16, MSTR, EN in 2, 1, 0 (10_state R19). -/
def State.ctrl (s : State) : BitVec 16 :=
  s.div ++ 0#5 ++ BitVec.ofBool s.w16 ++ BitVec.ofBool s.mstr ++ BitVec.ofBool s.en

/-- The number of a fault code (60_exceptions R135). -/
def codeNumber (c : FaultCode) : BitVec 4 :=
  match c with
  | .illegalCommand => 1#4
  | .truncatedCommand => 2#4
  | .notInitialised => 3#4
  | .reinit => 4#4
  | .cfgLocked => 5#4
  | .cfgWhilePending => 6#4
  | .disableWhileBusy => 7#4
  | .writeWhileDisabled => 8#4
  | .overrun => 9#4
  | .pinConflict => 10#4
  | .illegalOperand => 11#4
  | .addressRange => 12#4
  | .partialPixel => 13#4

/-- FAULT as a 4-bit register, 0 for no fault (10_state R18). -/
def State.faultReg (s : State) : BitVec 4 :=
  match s.fault with
  | none => 0#4
  | some c => codeNumber c

/-- `width(w16)`: 8 or 16 bits (10_state R28). -/
def widthOf (w16 : Bool) : Nat := if w16 then 16 else 8

/-- The wire level of a driven bit. -/
def levelOf (b : Bool) : Level := if b then .high else .low

/-- `WIRE_CLK` (10_state R33): idle low while an enabled master drives it. -/
def State.wireClk (s : State) : Level :=
  if s.en then
    if s.mstr then .low else .hiZ
  else if s.dirClk then levelOf s.latClk
  else .hiZ

/-- `WIRE_DATA` (10_state R33). -/
def State.wireData (s : State) : Level :=
  if s.en then
    if s.mstr then levelOf s.pdata else .hiZ
  else if s.dirData then levelOf s.latData
  else .hiZ

/-- The bit a rising latch-driven clock edge samples: the data wire where `origin` is manual and the wire is driven, else
the next free draw (40_execution R100). -/
def edgeBit (origin : Origin) (s : State) : Bool :=
  match origin, s.wireData with
  | .manual, .low => false
  | .manual, .high => true
  | _, _ => Config.drawBit s.drawIx

/-- How many draws `edgeBit` consumes. -/
def edgeDraws (origin : Origin) (s : State) : Nat :=
  match origin, s.wireData with
  | .manual, .low => 0
  | .manual, .high => 0
  | _, _ => 1

/-- The wire events of a clock transition from level `c0` to the clock level of `s` (40_execution R100): 0 to 1 is an edge,
Z to 1 and 0 to Z are glitches, every other case records nothing. -/
def wireEvents (origin : Origin) (c0 : Level) (s : State) : List WEvent :=
  match c0, s.wireClk with
  | .low, .high => [.edge (edgeBit origin s) s.cs origin none]
  | .hiZ, .high => [.glitch s.cs]
  | .low, .hiZ => [.glitch s.cs]
  | _, _ => []

/-- How many draws `wireEvents` consumes. -/
def wireDraws (origin : Origin) (c0 : Level) (s : State) : Nat :=
  match c0, s.wireClk with
  | .low, .high => edgeDraws origin s
  | _, _ => 0

end Sys2Proof.Machine
end

