-- ==== Sys2Proof/Machine/Ops.lean ====
section
/-! DEFINITION. The named operations: the launch memory, the pins, the traces, raising a fault, the µops of 40_execution
section 3, and the shift engine's LOAD and SHIFT (section 4). -/

namespace Sys2Proof.Machine

/-- The canonical form of the launch memory: addresses strictly rising, each below 2^32 (20_memory R39). -/
def Memory.wf : List Host.Cell → Bool
  | [] => true
  | [c] => decide (c.1 < 2 ^ 32)
  | c :: d :: rest => decide (c.1 < d.1) && Memory.wf (d :: rest)

/-- `MemRead(a, 1)` (20_memory R40): the byte at `a`, or none where the launch memory does not admit `a`. -/
def Memory.read (mem : List Host.Cell) (a : Nat) : Option Byte :=
  match mem with
  | [] => none
  | c :: rest => if c.1 = a then some c.2 else Memory.read rest a

/-- The host's placement of a byte before launch (70_reset R158): admits `a` with the byte `b`. No step calls it: the block
never writes memory (00_scope R12). -/
def Memory.place (mem : List Host.Cell) (a : Nat) (b : Byte) : List Host.Cell :=
  match mem with
  | [] => [(a, b)]
  | c :: rest =>
    if a < c.1 then (a, b) :: c :: rest
    else if a = c.1 then (a, b) :: rest
    else c :: Memory.place rest a b

/-- `emitR` (00_scope R12, 10_state R35). -/
def State.emitR (s : State) (e : REvent) : State := { s with rtrace := s.rtrace ++ [e] }

/-- `emitW` (00_scope R12, 10_state R36). -/
def State.emitW (s : State) (e : WEvent) : State := { s with wtrace := s.wtrace ++ [e] }

/-- `DIR[p]` (10_state R31). -/
def State.dir (s : State) (p : Pin) : Bool :=
  match p with
  | .data => s.dirData
  | .clk => s.dirClk

/-- `LAT[p]` (10_state R32). -/
def State.lat (s : State) (p : Pin) : Bool :=
  match p with
  | .data => s.latData
  | .clk => s.latClk

/-- `DIR[p] <- 1` (10_state R31). -/
def State.setOutput (s : State) (p : Pin) : State :=
  match p with
  | .data => { s with dirData := true }
  | .clk => { s with dirClk := true }

/-- `LAT[p] <- b` (10_state R32). -/
def State.setLat (s : State) (p : Pin) (b : Bool) : State :=
  match p with
  | .data => { s with latData := b }
  | .clk => { s with latClk := b }

/-- `wire_update(origin)` (40_execution R100): `c0` is WIRE_CLK before the µop's state change, `s` the state after it. -/
def State.wireUpdate (s : State) (origin : Origin) (c0 : Level) : State :=
  { s with
    wtrace := s.wtrace ++ wireEvents origin c0 s
    drawIx := s.drawIx + wireDraws origin c0 s }

/-- `raise Fault(code)` (60_exceptions R136): FAULT, FAULT_CP and FAULT_WORD are written and the event recorded; CP, PHASE
and everything else keep their values. Where CP is beyond the stream (no run from reset) the head word reads 0 (log 17). -/
def State.raiseFault (s : State) (code : FaultCode) : State :=
  { s with
    fault := some code
    faultCp := s.cp
    faultWord := s.stream.getD s.cp 0#32
    rtrace := s.rtrace ++ [.fault code] }

/-- The decode step's effect on a command that passes its checks (40_execution R80). -/
def State.start (s : State) (i : Instr) (l : Locals) : State := { s with phase := .running i 0 l }

/-- The µop after the current one becomes current (40_execution R81). -/
def State.goto (s : State) (i : Instr) (k : Nat) (l : Locals) : State := { s with phase := .running i k l }

/-- The retire step (40_execution R82): `CP <- CP + 1 + n_ext`, `PHASE <- Idle`, no event. -/
def State.retire (s : State) (i : Instr) : State := { s with cp := s.cp + 1 + i.nExt, phase := .idle }

/-- What a µop does: completes, stays current (a spin attempt that fails), or raises a fault (40_execution R84, R85). -/
inductive UopResult where
  | done (s : State)
  | again (s : State)
  | raised (code : FaultCode)
  deriving DecidableEq, Repr

/-- The Poll event of a status read (40_execution R84). -/
def State.pollEvent (s : State) : REvent := .poll s.txe s.idle

/-- `uSpinTXE` (40_execution R86): one poll, complete iff TXE = 1. -/
def uSpinTXE (s : State) : UopResult :=
  if s.txe then .done (s.emitR s.pollEvent) else .again (s.emitR s.pollEvent)

/-- `uSpinIdle` (40_execution R87): one poll, complete iff IDLE = 1. -/
def uSpinIdle (s : State) : UopResult :=
  if s.idle then .done (s.emitR s.pollEvent) else .again (s.emitR s.pollEvent)

/-- `uSetCfg(w16, div)` (40_execution R88). -/
def uSetCfg (w16 : Bool) (div : Byte) (s : State) : UopResult :=
  if s.unlocked = false then .raised .cfgLocked
  else if s.txe = false then .raised .cfgWhilePending
  else .done ({ s with w16 := w16, div := div }.emitR (.cfg w16 div))

/-- `uWriteTDR(v)` (40_execution R89). -/
def uWriteTDR (v : Half) (s : State) : UopResult :=
  if s.en = false ∨ s.mstr = false then .raised .writeWhileDisabled
  else if s.txe = false then .raised .overrun
  else if s.w16 = false ∧ v.extractLsb' 8 8 ≠ 0#8 then .raised .illegalOperand
  else if s.div = 0#8 then .raised .illegalOperand
  else .done ({ s with txh := some { v := v, w16 := s.w16, div := s.div } }.emitR (.queue v s.w16))

/-- `uEnable` (40_execution R90). -/
def uEnable (s : State) : UopResult :=
  .done (({ s with en := true }.emitR .enable).wireUpdate .mux s.wireClk)

/-- `uDisable` (40_execution R91). -/
def uDisable (s : State) : UopResult :=
  if s.idle = false then .raised .disableWhileBusy
  else .done (({ s with en := false }.emitR .disable).wireUpdate .mux s.wireClk)

/-- `uUnlock` (40_execution R92). -/
def uUnlock (s : State) : UopResult := .done ({ s with unlocked := true }.emitR .unlock)

/-- `uSetMaster` (40_execution R93). -/
def uSetMaster (s : State) : UopResult :=
  if s.unlocked = false then .raised .cfgLocked
  else .done (({ s with mstr := true }.emitR .master).wireUpdate .mux s.wireClk)

/-- `uPinOut(p)` (40_execution R94). -/
def uPinOut (p : Pin) (s : State) : UopResult :=
  if s.en then .raised .pinConflict
  else .done (((s.setOutput p).emitR (.pinOut p)).wireUpdate .mux s.wireClk)

/-- `uPinHigh(p)` (40_execution R95). -/
def uPinHigh (p : Pin) (s : State) : UopResult :=
  if s.en = true ∨ s.dir p = false then .raised .pinConflict
  else .done (((s.setLat p true).emitR (.pinHigh p)).wireUpdate .manual s.wireClk)

/-- `uPinLow(p)` (40_execution R96). -/
def uPinLow (p : Pin) (s : State) : UopResult :=
  if s.en = true ∨ s.dir p = false then .raised .pinConflict
  else .done (((s.setLat p false).emitR (.pinLow p)).wireUpdate .manual s.wireClk)

/-- The guard's call, if a guard is bound: CS takes the level and the wire trace records it (40_execution R97, R98). -/
def State.guardCall (s : State) (level : CsLevel) : State :=
  if Config.guardPresent then { s with cs := level, wtrace := s.wtrace ++ [.cs level] } else s

/-- `uSelect` (40_execution R97). -/
def uSelect (s : State) : UopResult := .done ((s.emitR .select).guardCall .asserted)

/-- `uRelease` (40_execution R98). -/
def uRelease (s : State) : UopResult := .done ((s.emitR .release).guardCall .released)

/-- `uPostBlock(n)` (40_execution R99). -/
def uPostBlock (n : Nat) (s : State) : UopResult := .done (s.emitR (.postBlock n))

/-- The µops by name (40_execution section 3). -/
inductive Uop where
  | spinTxe
  | spinIdle
  | setCfg (w16 : Bool) (div : Byte)
  | writeTdr (v : Half)
  | enable
  | disable
  | unlock
  | setMaster
  | pinOut (p : Pin)
  | pinHigh (p : Pin)
  | pinLow (p : Pin)
  | select
  | release
  | postBlock (n : Nat)
  deriving DecidableEq, Repr

/-- Performs a µop. -/
def runUop (u : Uop) (s : State) : UopResult :=
  match u with
  | .spinTxe => uSpinTXE s
  | .spinIdle => uSpinIdle s
  | .setCfg w16 div => uSetCfg w16 div s
  | .writeTdr v => uWriteTDR v s
  | .enable => uEnable s
  | .disable => uDisable s
  | .unlock => uUnlock s
  | .setMaster => uSetMaster s
  | .pinOut p => uPinOut p s
  | .pinHigh p => uPinHigh p s
  | .pinLow p => uPinLow p s
  | .select => uSelect s
  | .release => uRelease s
  | .postBlock n => uPostBlock n s

/-- What a command's micro-program asks for at a position: a µop and the position and loop state after it; nothing more
(the retire step is next); or a MemRead the launch memory does not admit (40_execution R81, R82, 20_memory R40). -/
inductive Micro where
  | uop (u : Uop) (k : Nat) (l : Locals)
  | retire
  | blocked
  deriving DecidableEq, Repr

/-- SEQ's step at a position of a running command (40_execution R81, R82, R84, R85): a µop that completes moves on, a spin
attempt that fails leaves PHASE as it is, a µop that faults does nothing but the fault. -/
def runMicro (i : Instr) (m : Micro) (s : State) : Host.Outcome State Fault Refusal :=
  match m with
  | .retire => .next (s.retire i)
  | .blocked => .fault .memReadBlocked
  | .uop u k l =>
    match runUop u s with
    | .done t => .next (t.goto i k l)
    | .again t => .next t
    | .raised code => .next (s.raiseFault code)

/-- The loop state a command starts with (log 16): every later value is set before it is read. -/
def Locals.start : Locals := { i := 0, rem := 0, sigma := 0, post := [] }

/-- SEQ's step for command `i` (40_execution R80, R81). In Idle it is the decode step: `check` is the first command-level
check that fails (60_exceptions R138 steps 4 to 6), if any. In Running it performs the program's next µop or retires. -/
def runCommand (i : Instr) (check : Option FaultCode) (program : Nat → Locals → Micro) (s : State) :
    Host.Outcome State Fault Refusal :=
  match s.phase with
  | .idle =>
    match check with
    | some code => .next (s.raiseFault code)
    | none => .next (s.start i Locals.start)
  | .running _ k l => runMicro i (program k l) s

/-- The check every S-class command but `init` makes (42_init_select R119). -/
def initialisedCheck (s : State) : Option FaultCode := if s.initDone then none else some .notInitialised

/-- The first of two checks that fails. -/
def firstFault (a b : Option FaultCode) : Option FaultCode :=
  match a with
  | some c => some c
  | none => b

/-- The micro-program of a P-class command: one µop (41_primitives R107). -/
def singleUop (u : Uop) (k : Nat) (l : Locals) : Micro :=
  match k with
  | 0 => .uop u 1 l
  | _ => .retire

/-- SHE has a step exactly when the peripheral is an enabled master and TXH or SR holds a word (40_execution R101). -/
def State.sheReady (s : State) : Bool := s.en && s.mstr && (s.txh.isSome || s.sr.isSome)

/-- LOAD (40_execution R102): the word moves from TXH to SR. -/
def State.load (s : State) (w : TxWord) : State :=
  { s with txh := none, sr := some { v := w.v, w16 := w.w16, div := w.div, k := widthOf w.w16 } }

/-- The bit SHIFT puts on the wire: the most significant remaining one (40_execution R103). -/
def shiftBit (r : ShiftWord) : Bool := r.v.getLsbD (r.k - 1)

/-- SHIFT (40_execution R103): one bit, one atomic clock pulse. -/
def State.shift (s : State) (r : ShiftWord) : State :=
  { s with
    pdata := shiftBit r
    wtrace := s.wtrace ++ [.edge (shiftBit r) s.cs .hw (some r.div)]
    sr := if r.k ≤ 1 then none else some { r with k := r.k - 1 } }

/-- SHE's step (40_execution R102, R103): SHIFT where SR holds a word, LOAD where only TXH does. -/
def sheStep (s : State) : State :=
  match s.sr with
  | some r => s.shift r
  | none =>
    match s.txh with
    | some w => s.load w
    | none => s

/-- A scheduling choice has been used: the next one is read from the free sequence (40_execution R78, log 1). -/
def State.chooseTurn (s : State) : State :=
  { s with turn := if Config.schedule s.schedIx then .she else .seq, schedIx := s.schedIx + 1 }

/-- What SEQ finds at CP: nothing (CP is not less than the stream length), an error, or a command (40_execution R80). -/
def fetch (s : State) : Option (Except DecodeError Instr) :=
  if s.cp < s.stream.length then some (decode (s.stream.drop s.cp)) else none

/-- The fault code of a decode error (60_exceptions R135, R138). -/
def decodeFault (e : DecodeError) : FaultCode :=
  match e with
  | .truncated => .truncatedCommand
  | .noWord => .truncatedCommand
  | .illegalOpcode => .illegalCommand
  | .reservedBits => .illegalCommand
  | .illegalValue => .illegalCommand
  | .reservedExt3 => .illegalCommand

/-- The host's placement of a command where SEQ decodes next: at index CP of the stream, SEQ idle, unfaulted and first to
move (log 7). -/
def State.placeCommand (s : State) (ws : List Word) : State :=
  { s with
    stream := s.stream.take s.cp ++ (List.replicate (s.cp - s.stream.length) 0#32 ++ ws)
    phase := .idle
    fault := none
    turn := .seq }

end Sys2Proof.Machine
end

