-- ==== Sys2Proof/Machine/Operands.lean ====
section
/-! DEFINITION. How commands use their operands: zero extension, windows, transforms, the pixel step, the framing bit, and
the operand checks (00_scope R8, R9, R11, 20_memory R41, 46_pixel_stream R130). -/

namespace Sys2Proof.Machine

/-- `zext_16` of a byte (00_scope R11). -/
def zext16 (b : Byte) : Half := b.setWidth 16

/-- `W[i] = MemRead(ADDR + i, 1)` (20_memory R41). The sum is a natural number: nothing wraps. -/
def windowByte (mem : List Host.Cell) (addr : Word) (i : Nat) : Option Byte := Memory.read mem (addr.toNat + i)

/-- `n` bytes of memory from address `a` up, or none where one of them is not admitted (20_memory R40, R41). -/
def readBytes (mem : List Host.Cell) (a : Nat) (n : Nat) : Option (List Byte) :=
  match n with
  | 0 => some []
  | n + 1 =>
    match Memory.read mem a with
    | none => none
    | some b => (readBytes mem (a + 1) n).map (b :: ·)

/-- The window of a command (20_memory R41). -/
def window (mem : List Host.Cell) (addr len : Word) : Option (List Byte) := readBytes mem addr.toNat len.toNat

/-- ADDRESS_RANGE (20_memory R41): `ADDR + LEN > 2^32`. -/
def rangeCheck (addr len : Word) : Option FaultCode :=
  if 2 ^ 32 < addr.toNat + len.toNat then some .addressRange else none

/-- The raw bytes a pixel takes, `3 + SKIP`, 3..258 (46_pixel_stream R130). -/
def pixStep (a : PixArgs) : Nat := 3 + a.skip.toNat

/-- PARTIAL_PIXEL (46_pixel_stream R130): `LEN mod (3 + SKIP) != 0`. -/
def partialCheck (a : PixArgs) : Option FaultCode :=
  if a.len.toNat % pixStep a = 0 then none else some .partialPixel

/-- `byte[bidx]`, bit 0 least significant (45_single_bit R129). -/
def selectedBit (byte : Byte) (bidx : BitVec 3) : Bool := byte.getLsbD bidx.toNat

/-- The pin µop that puts a bit on the data latch (45_single_bit R129). -/
def dataUop (b : Bool) : Uop := if b then .pinHigh .data else .pinLow .data

/-- `ps_init(W, SCALE, ORDER, 1, ADV, SKIP)`: dithering enabled (46_pixel_stream R130). -/
def pixSource (a : PixArgs) (w : List Byte) : Config.PsState :=
  Config.psInit w a.scale a.order true a.adv a.skip

/-- The source's step 3c: the cursor, then the dithering phase (46_pixel_stream R130). -/
def pixAdvance (σ : Config.PsState) : Config.PsState := Config.psStepDithering (Config.psAdvance σ)

end Sys2Proof.Machine
end

