-- ==== Sys2Proof/Machine/InitSelect.lean ====
section
/-! DEFINITION. Initialisation, select and release (42_init_select R119-R122). -/

namespace Sys2Proof.Machine

/-- The check of `init` (R120): a second init is REINIT. -/
def reinitCheck (s : State) : Option FaultCode := if s.initDone then some .reinit else none

/-- The µops of `init` in the source's order (R120). -/
def initProgram (k : Nat) (l : Locals) : Micro :=
  match k with
  | 0 => .uop (.pinOut .data) 1 l
  | 1 => .uop (.pinOut .clk) 2 l
  | 2 => .uop .release 3 l
  | 3 => .uop .unlock 4 l
  | 4 => .uop .setMaster 5 l
  | 5 => .uop (.setCfg false Config.divT) 6 l
  | 6 => .uop .enable 7 l
  | _ => .retire

/-- The retire step of `init` also sets INIT_DONE, its last action (R120). -/
def initRetire (s : State) : State := { s with initDone := true }.retire .init

/-- `init` (R120). -/
def execInit (s : State) : Host.Outcome State Fault Refusal :=
  match s.phase with
  | .running _ k l =>
    match initProgram k l with
    | .retire => .next (initRetire s)
    | m => runMicro .init m s
  | .idle => runCommand .init (reinitCheck s) initProgram s

/-- `sel` (R121). -/
def execSel (s : State) : Host.Outcome State Fault Refusal :=
  runCommand .sel (initialisedCheck s) (singleUop .select) s

/-- `rel` (R122). -/
def execRel (s : State) : Host.Outcome State Fault Refusal :=
  runCommand .rel (initialisedCheck s) (singleUop .release) s

end Sys2Proof.Machine
end

