-- ==== Sys2Proof/Machine/Bracketed.lean ====
section
/-! DEFINITION. Repeated bytes and bracketed transactions (44_bracketed R126-R128), and the post-block tail that `wseq` and
`wpix` share. A loop is evaluated in the step of the next µop (40_execution R81), so a program's loop test stands at the
positions before and after the loop's body. -/

namespace Sys2Proof.Machine

/-- The loop test of `wrep`: the next byte's spin, or nothing more (R126). -/
def repHead (n : Nat) (l : Locals) : Micro := if l.i < n then .uop .spinTxe 1 l else .retire

/-- `writeRepeatedByte_body(v, n)` (R126). Position 0 enters the loop, 3 ends an iteration. -/
def repProgram (v : Byte) (n : Nat) (k : Nat) (l : Locals) : Micro :=
  match k with
  | 0 => repHead n l
  | 1 => .uop (.setCfg false Config.divT) 2 l
  | 2 => .uop (.writeTdr (zext16 v)) 3 l
  | _ => repHead n { l with i := l.i + 1 }

/-- `wrep v, count` (R126). -/
def execWrep (imm : Byte) (count : Word) (s : State) : Host.Outcome State Fault Refusal :=
  runCommand (.wrep imm count) (initialisedCheck s) (repProgram imm count.toNat) s

/-- The loop test of `wbv`: the next byte's spin, or the release, with no drain before it (R127). -/
def bvHead (n : Nat) (l : Locals) : Micro := if l.i < n then .uop .spinTxe 2 l else .uop .release 5 l

/-- `writeBytesValue_body(v, n)` (R127). Position 1 enters the loop, 4 ends an iteration. -/
def bvProgram (v : Byte) (n : Nat) (k : Nat) (l : Locals) : Micro :=
  match k with
  | 0 => .uop .select 1 l
  | 1 => bvHead n l
  | 2 => .uop (.setCfg false Config.divT) 3 l
  | 3 => .uop (.writeTdr (zext16 v)) 4 l
  | 4 => bvHead n { l with i := l.i + 1 }
  | _ => .retire

/-- `wbv v, count` (R127). -/
def execWbv (imm : Byte) (count : Word) (s : State) : Host.Outcome State Fault Refusal :=
  runCommand (.wbv imm count) (initialisedCheck s) (bvProgram imm count.toNat) s

/-- The loop test over the post-block bytes: the next byte's spin, going on at `kByte`, or the drain, going on at
`kRelease` (R128). -/
def postHead (kByte kRelease : Nat) (l : Locals) : Micro :=
  match l.post with
  | [] => .uop .spinIdle kRelease l
  | _ :: _ => .uop .spinTxe kByte l

/-- The µop that queues the first pending post-block byte, unadjusted (R128, 00_scope R8). -/
def postWrite (l : Locals) : Uop := .writeTdr (zext16 (l.post.headD 0#8))

/-- The loop test of `wseq`: the read of the next window byte stands before its queuing, so a byte the launch memory does
not admit blocks here (R128, 20_memory R40, log 9). -/
def seqHead (mem : List Host.Cell) (addr len : Word) (l : Locals) : Micro :=
  if l.i < len.toNat then
    match windowByte mem addr l.i with
    | none => .blocked
    | some _ => .uop .spinTxe 2 l
  else .uop (.postBlock len.toNat) 5 l

/-- `writeByteSequence_body(ADDR, LEN, T)` (R128). Position 1 enters the byte loop and 4 ends an iteration of it; 5 enters
the post-block loop and 8 ends an iteration of that; 9 is the release. -/
def seqProgram (mem : List Host.Cell) (tsel : BitVec 3) (addr len : Word) (k : Nat) (l : Locals) : Micro :=
  match k with
  | 0 => .uop .select 1 l
  | 1 => seqHead mem addr len l
  | 2 => .uop (.setCfg false Config.divT) 3 l
  | 3 =>
    match windowByte mem addr l.i with
    | none => .blocked
    | some b => .uop (.writeTdr (zext16 (Config.adjust tsel b))) 4 l
  | 4 => seqHead mem addr len { l with i := l.i + 1 }
  | 5 => postHead 6 9 { l with post := Config.postBlock tsel len.toNat }
  | 6 => .uop (.setCfg false Config.divT) 7 l
  | 7 => .uop (postWrite l) 8 l
  | 8 => postHead 6 9 { l with post := l.post.tail }
  | 9 => .uop .release 10 l
  | _ => .retire

/-- `wseq addr, len, t=tsel` (R128). -/
def execWseq (tsel : BitVec 3) (addr len : Word) (s : State) : Host.Outcome State Fault Refusal :=
  runCommand (.wseq tsel addr len) (firstFault (initialisedCheck s) (rangeCheck addr len))
    (seqProgram s.mem tsel addr len) s

end Sys2Proof.Machine
end

