-- ==== Sys2Proof/Machine/PixelStream.lean ====
section
/-! DEFINITION. Pixel-triplet streaming (46_pixel_stream R130-R134). -/

namespace Sys2Proof.Machine

/-- The loop test of `wpix`: the framing bit or the first channel byte of the next pixel, or the post-block hook (R130). -/
def pixHead (a : PixArgs) (l : Locals) : Micro :=
  if 0 < l.rem then
    if a.sbf then .uop .spinIdle 3 l else .uop .spinTxe 9 l
  else .uop (.postBlock a.len.toNat) 17 l

/-- The µop that queues an adjusted channel byte (R130 step 3b). -/
def pixWrite (a : PixArgs) (b : Byte) : Uop := .writeTdr (zext16 (Config.adjust a.tsel b))

/-- `writePixelStream_body` (R130). Position 1 opens the PixelSource on the whole window, which blocks where a byte of it is
not admitted (log 9), and enters the pixel loop; 3 to 7 are the rest of the framing bit; 8 to 10, 11 to 13 and 14 to 16 the
three channel bytes; 2 ends an iteration; 17 enters the post-block loop and 20 ends an iteration of it; 21 is the release. -/
def pixProgram (mem : List Host.Cell) (a : PixArgs) (k : Nat) (l : Locals) : Micro :=
  match k with
  | 0 => .uop .select 1 l
  | 1 =>
    match window mem a.addr a.len with
    | none => .blocked
    | some w => pixHead a { l with sigma := pixSource a w, rem := a.len.toNat }
  | 2 => pixHead a { l with sigma := pixAdvance l.sigma, rem := l.rem - pixStep a }
  | 3 => .uop .disable 4 l
  | 4 => .uop (dataUop (selectedBit a.fbyte a.fbidx)) 5 l
  | 5 => .uop (.pinHigh .clk) 6 l
  | 6 => .uop (.pinLow .clk) 7 l
  | 7 => .uop .enable 8 l
  | 8 => .uop .spinTxe 9 l
  | 9 => .uop (.setCfg false Config.divT) 10 l
  | 10 => .uop (pixWrite a (Config.psCh0 l.sigma)) 11 l
  | 11 => .uop .spinTxe 12 l
  | 12 => .uop (.setCfg false Config.divT) 13 l
  | 13 => .uop (pixWrite a (Config.psCh1 l.sigma)) 14 l
  | 14 => .uop .spinTxe 15 l
  | 15 => .uop (.setCfg false Config.divT) 16 l
  | 16 => .uop (pixWrite a (Config.psCh2 l.sigma)) 2 l
  | 17 => postHead 18 21 { l with post := Config.postBlock a.tsel a.len.toNat }
  | 18 => .uop (.setCfg false Config.divT) 19 l
  | 19 => .uop (postWrite l) 20 l
  | 20 => postHead 18 21 { l with post := l.post.tail }
  | 21 => .uop .release 22 l
  | _ => .retire

/-- The command-level checks of `wpix` after the decode checks, in the order of 60_exceptions R138. -/
def pixCheck (a : PixArgs) (s : State) : Option FaultCode :=
  firstFault (initialisedCheck s) (firstFault (rangeCheck a.addr a.len) (partialCheck a))

/-- `wpix` (R130). -/
def execWpix (a : PixArgs) (s : State) : Host.Outcome State Fault Refusal :=
  runCommand (.wpix a) (pixCheck a s) (pixProgram s.mem a) s

end Sys2Proof.Machine
end

