-- ==== Sys2Proof/Machine/Primitives.lean ====
section
/-! DEFINITION. The P-class commands (41_primitives): each is decoded, runs its one µop and retires; none checks INIT_DONE
(R107). -/

namespace Sys2Proof.Machine

/-- `p.spintxe` (R108). -/
def execPSpintxe (s : State) : Host.Outcome State Fault Refusal :=
  runCommand .pSpintxe none (singleUop .spinTxe) s

/-- `p.spinidle` (R109). -/
def execPSpinidle (s : State) : Host.Outcome State Fault Refusal :=
  runCommand .pSpinidle none (singleUop .spinIdle) s

/-- `p.cfg w, div` (R110). -/
def execPCfg (w16 : Bool) (div : Byte) (s : State) : Host.Outcome State Fault Refusal :=
  runCommand (.pCfg w16 div) none (singleUop (.setCfg w16 div)) s

/-- `p.wtdr v` (R111). -/
def execPWtdr (imm : Half) (s : State) : Host.Outcome State Fault Refusal :=
  runCommand (.pWtdr imm) none (singleUop (.writeTdr imm)) s

/-- `p.en` (R112). -/
def execPEn (s : State) : Host.Outcome State Fault Refusal :=
  runCommand .pEn none (singleUop .enable) s

/-- `p.dis` (R113). -/
def execPDis (s : State) : Host.Outcome State Fault Refusal :=
  runCommand .pDis none (singleUop .disable) s

/-- `p.unlock` (R114). -/
def execPUnlock (s : State) : Host.Outcome State Fault Refusal :=
  runCommand .pUnlock none (singleUop .unlock) s

/-- `p.master` (R115). -/
def execPMaster (s : State) : Host.Outcome State Fault Refusal :=
  runCommand .pMaster none (singleUop .setMaster) s

/-- `p.pinout p` (R116). -/
def execPPinout (p : Pin) (s : State) : Host.Outcome State Fault Refusal :=
  runCommand (.pPinout p) none (singleUop (.pinOut p)) s

/-- `p.pinhi p` (R117). -/
def execPPinhi (p : Pin) (s : State) : Host.Outcome State Fault Refusal :=
  runCommand (.pPinhi p) none (singleUop (.pinHigh p)) s

/-- `p.pinlo p` (R118). -/
def execPPinlo (p : Pin) (s : State) : Host.Outcome State Fault Refusal :=
  runCommand (.pPinlo p) none (singleUop (.pinLow p)) s

end Sys2Proof.Machine
end

