-- ==== Sys2Proof/Machine/Queuing.lean ====
section
/-! DEFINITION. Byte and word queuing and the full drain (43_queuing R123-R125). -/

namespace Sys2Proof.Machine

/-- The bodies of `writeByte` and `writeWord`: spin on TXE, set width and divider, queue the value (R123, R124). -/
def writeProgram (w16 : Bool) (v : Half) (k : Nat) (l : Locals) : Micro :=
  match k with
  | 0 => .uop .spinTxe 1 l
  | 1 => .uop (.setCfg w16 Config.divT) 2 l
  | 2 => .uop (.writeTdr v) 3 l
  | _ => .retire

/-- `wbyte b` (R123). -/
def execWbyte (imm : Byte) (s : State) : Host.Outcome State Fault Refusal :=
  runCommand (.wbyte imm) (initialisedCheck s) (writeProgram false (zext16 imm)) s

/-- `wword w` (R124). -/
def execWword (imm : Half) (s : State) : Host.Outcome State Fault Refusal :=
  runCommand (.wword imm) (initialisedCheck s) (writeProgram true imm) s

/-- `widle` (R125). -/
def execWidle (s : State) : Host.Outcome State Fault Refusal :=
  runCommand .widle (initialisedCheck s) (singleUop .spinIdle) s

end Sys2Proof.Machine
end

