-- ==== Sys2Proof/Machine/SingleBit.lean ====
section
/-! DEFINITION. Manual single-bit emission, the bit-banging fallback (45_single_bit R129). -/

namespace Sys2Proof.Machine

/-- `writeSingleBit_body(byte, bidx)` (R129). -/
def bitProgram (byte : Byte) (bidx : BitVec 3) (k : Nat) (l : Locals) : Micro :=
  match k with
  | 0 => .uop .spinIdle 1 l
  | 1 => .uop .disable 2 l
  | 2 => .uop (dataUop (selectedBit byte bidx)) 3 l
  | 3 => .uop (.pinHigh .clk) 4 l
  | 4 => .uop (.pinLow .clk) 5 l
  | 5 => .uop .enable 6 l
  | _ => .retire

/-- `wbit byte, bidx` (R129). -/
def execWbit (imm : Byte) (bidx : BitVec 3) (s : State) : Host.Outcome State Fault Refusal :=
  runCommand (.wbit imm bidx) (initialisedCheck s) (bitProgram imm bidx) s

end Sys2Proof.Machine
end

