-- ==== Sys2Proof/Machine/Dispatch.lean ====
section
/-! DEFINITION. One arm per command: SEQ's step for the command, in the state's PHASE. -/

namespace Sys2Proof.Machine

/-- SEQ's step for command `i`. -/
def exec (i : Instr) (s : State) : Host.Outcome State Fault Refusal :=
  match i with
  | .init => Sys2Proof.Machine.execInit s
  | .sel => Sys2Proof.Machine.execSel s
  | .rel => Sys2Proof.Machine.execRel s
  | .wbyte imm => Sys2Proof.Machine.execWbyte imm s
  | .wword imm => Sys2Proof.Machine.execWword imm s
  | .widle => Sys2Proof.Machine.execWidle s
  | .wrep imm count => Sys2Proof.Machine.execWrep imm count s
  | .wbv imm count => Sys2Proof.Machine.execWbv imm count s
  | .wseq tsel addr len => Sys2Proof.Machine.execWseq tsel addr len s
  | .wbit imm bidx => Sys2Proof.Machine.execWbit imm bidx s
  | .wpix a => Sys2Proof.Machine.execWpix a s
  | .pSpintxe => Sys2Proof.Machine.execPSpintxe s
  | .pSpinidle => Sys2Proof.Machine.execPSpinidle s
  | .pCfg w16 div => Sys2Proof.Machine.execPCfg w16 div s
  | .pWtdr imm => Sys2Proof.Machine.execPWtdr imm s
  | .pEn => Sys2Proof.Machine.execPEn s
  | .pDis => Sys2Proof.Machine.execPDis s
  | .pUnlock => Sys2Proof.Machine.execPUnlock s
  | .pMaster => Sys2Proof.Machine.execPMaster s
  | .pPinout p => Sys2Proof.Machine.execPPinout p s
  | .pPinhi p => Sys2Proof.Machine.execPPinhi p s
  | .pPinlo p => Sys2Proof.Machine.execPPinlo p s

end Sys2Proof.Machine
end

