-- ==== Sys2Proof/Machine/Agents.lean ====
section
/-! DEFINITION. SEQ's step and the interleaving of the two agents (40_execution R78, R80, R81, R105). -/

namespace Sys2Proof.Machine

/-- Why SEQ has no step at the end of the stream: the run is final, or (in states no run from reset reaches) stuck
(40_execution R105). -/
def endReason (s : State) : Fault :=
  if s.cp = s.stream.length ∧ s.idle = true then .runFinal else .stuckOtherwise

/-- SEQ's step (40_execution R80-R82): none once FAULT is set; in Idle the decode step, whose decode checks raise their
fault here; in Running the current command's next µop. -/
def seqStep (s : State) : Host.Outcome State Fault Refusal :=
  match s.fault with
  | some _ => .fault .runFaulted
  | none =>
    match s.phase with
    | .running cmd _ _ => exec cmd s
    | .idle =>
      match fetch s with
      | none => .fault (endReason s)
      | some (.error e) => .next (s.raiseFault (decodeFault e))
      | some (.ok i) => exec i s

/-- One step of the block (40_execution R77, R78): SEQ's where SHE has none; SHE's where SEQ has none; where both have one,
the agent `turn` names, and the next choice is drawn (log 1). Where neither has one, SEQ's reason why. -/
def agentsStep (s : State) : Host.Outcome State Fault Refusal :=
  if s.sheReady then
    match seqStep s with
    | .next t =>
      match s.turn with
      | .seq => .next t.chooseTurn
      | .she => .next (sheStep s).chooseTurn
    | .fault _ => .next (sheStep s)
    | .refused r => .refused r
  else seqStep s

end Sys2Proof.Machine
end

