-- ==== Sys2Proof/Machine/Step.lean ====
section
/-! DEFINITION. The block's step, and the launch of one command word. -/

namespace Sys2Proof.Machine

/-- One step of the block: one atomic transition of one agent (40_execution R77). -/
def step (s : State) : Host.Outcome State Fault Refusal := agentsStep s

/-- `s` with a command of the given bits at index CP of the stream and SEQ about to decode it: the host's load of the
command port (log 7). -/
def State.withFetchWord (s : State) (nbits w : Nat) : State := s.placeCommand (tableWords nbits w)

end Sys2Proof.Machine
end

