-- ==== Sys2Proof/Machine/Assembler.lean ====
section
/-! DEFINITION. The assembler syntax and the pseudo-instructions (30_encoding R74, R75). They have no effect of their own: a
pseudo-instruction is the list of commands it expands to. -/

namespace Sys2Proof.Machine

/-- The five pseudo-instructions (R75). -/
inductive Pseudo where
  | wbvDrained (v : Byte) (n : Word)
  | wbit1
  | wbit0
  | wbyteSync (b : Byte)
  | frame16 (w : Half)
  deriving DecidableEq, Repr

/-- The commands a pseudo-instruction stands for (R75). -/
def expandPseudo (p : Pseudo) : List Instr :=
  match p with
  | .wbvDrained v n => [.sel, .wrep v n, .widle, .rel]
  | .wbit1 => [.wbit 0x01#8 0#3]
  | .wbit0 => [.wbit 0x00#8 0#3]
  | .wbyteSync b => [.wbyte b, .widle]
  | .frame16 w => [.sel, .wword w, .widle, .rel]

/-- The command stream of a list of commands (30_encoding R60, R61). -/
def assemble (cmds : List Instr) : List Word := cmds.flatMap encode

/-- The name of a colour order (30_encoding R64). -/
def orderName (o : ColorOrder) : String :=
  match o with
  | .rgb => "RGB"
  | .rbg => "RBG"
  | .grb => "GRB"
  | .gbr => "GBR"
  | .brg => "BRG"
  | .bgr => "BGR"

/-- The raw channel indices that the reference source of 92_eei_decisions D53 emits for an order (30_encoding R64); the
block itself does not interpret ORDER. -/
def orderIndices (o : ColorOrder) : List Nat :=
  match o with
  | .rgb => [0, 1, 2]
  | .rbg => [0, 2, 1]
  | .grb => [1, 0, 2]
  | .gbr => [1, 2, 0]
  | .brg => [2, 0, 1]
  | .bgr => [2, 1, 0]

/-- A number in decimal (R74). -/
def asmNum (n : Nat) : String := toString n

/-- A flag operand, 0 or 1. -/
def asmBit (b : Bool) : String := if b then "1" else "0"

/-- A pin operand (R74). -/
def asmPin (p : Pin) : String :=
  match p with
  | .data => "data"
  | .clk => "clk"

/-- The source line of a command, every keyword operand written out (R74). -/
def asmLine (i : Instr) : String :=
  match i with
  | .init => "init"
  | .sel => "sel"
  | .rel => "rel"
  | .widle => "widle"
  | .wbyte b => "wbyte " ++ asmNum b.toNat
  | .wword w => "wword " ++ asmNum w.toNat
  | .wrep b n => "wrep " ++ asmNum b.toNat ++ ", " ++ asmNum n.toNat
  | .wbv b n => "wbv " ++ asmNum b.toNat ++ ", " ++ asmNum n.toNat
  | .wseq t a n => "wseq " ++ asmNum a.toNat ++ ", " ++ asmNum n.toNat ++ ", t=" ++ asmNum t.toNat
  | .wbit b x => "wbit " ++ asmNum b.toNat ++ ", " ++ asmNum x.toNat
  | .wpix a =>
    "wpix " ++ asmNum a.addr.toNat ++ ", " ++ asmNum a.len.toNat ++ ", scale=" ++ asmNum a.scale.toNat ++
      ", skip=" ++ asmNum a.skip.toNat ++ ", order=" ++ orderName a.order ++ ", adv=" ++ asmBit a.adv ++
      ", sbf=" ++ asmBit a.sbf ++ ", fbyte=" ++ asmNum a.fbyte.toNat ++ ", fbidx=" ++ asmNum a.fbidx.toNat ++
      ", t=" ++ asmNum a.tsel.toNat
  | .pSpintxe => "p.spintxe"
  | .pSpinidle => "p.spinidle"
  | .pEn => "p.en"
  | .pDis => "p.dis"
  | .pUnlock => "p.unlock"
  | .pMaster => "p.master"
  | .pCfg w d => "p.cfg w=" ++ (if w then "16" else "8") ++ ", div=" ++ asmNum d.toNat
  | .pWtdr w => "p.wtdr " ++ asmNum w.toNat
  | .pPinout p => "p.pinout " ++ asmPin p
  | .pPinhi p => "p.pinhi " ++ asmPin p
  | .pPinlo p => "p.pinlo " ++ asmPin p

end Sys2Proof.Machine
end

