-- ==== Sys2Proof/Safety.lean ====
section
/-! DEFINITION. What counts as an execution, how a run ends, what is read off the traces, and the invariants that claims
use (40_execution R78, R79, R105, R106, 10_state R28, R34, R37). -/

namespace Sys2Proof.Safety

open Sys2Proof.Machine

/-! ### Executions -/

/-- SEQ's transition (40_execution R80-R82). -/
def SeqMoves (s t : State) : Prop := seqStep s = .next t

/-- SHE's transition (40_execution R101-R103). -/
def SheMoves (s t : State) : Prop := s.sheReady = true ∧ t = sheStep s

/-- The free interleaving: any agent with an enabled step may take it (40_execution R78). The model's own `turn` plays no
part in it. -/
def Moves (s t : State) : Prop := SeqMoves s t ∨ SheMoves s t

/-- A finite execution (00_scope R13). -/
inductive Run : State → State → Prop where
  | refl (s : State) : Run s s
  | tail (s t u : State) (h : Run s t) (m : Moves t u) : Run s u

/-- An infinite execution. -/
def Infinite (σ : Nat → State) : Prop := ∀ n, Moves (σ n) (σ (n + 1))

/-- Weak fairness to SEQ: if its step stays enabled from some point on, it takes a step eventually (40_execution R79). -/
def FairToSeq (σ : Nat → State) : Prop :=
  ∀ n, (∀ m, n ≤ m → ∃ t, SeqMoves (σ m) t) → ∃ m, n ≤ m ∧ SeqMoves (σ m) (σ (m + 1))

/-- Weak fairness to SHE (40_execution R79). -/
def FairToShe (σ : Nat → State) : Prop :=
  ∀ n, (∀ m, n ≤ m → (σ m).sheReady = true) → ∃ m, n ≤ m ∧ SheMoves (σ m) (σ (m + 1))

/-- The infinite executions that count (`MayEnd` gives the finite ones): weakly fair to both agents where ENGINE_FAIR holds,
to SEQ alone where it does not (40_execution R79). -/
def Counts (σ : Nat → State) : Prop := FairToSeq σ ∧ (Config.engineFair = true → FairToShe σ)

/-- An infinite weakly fair execution (40_execution R105). -/
def Hang (σ : Nat → State) : Prop := Infinite σ ∧ Counts σ

/-- A final state (40_execution R105). -/
def Final (s : State) : Prop :=
  s.fault = none ∧ s.cp = s.stream.length ∧ s.phase = .idle ∧ s.idle = true

/-- A faulted state (40_execution R105). -/
def Faulted (s : State) : Prop := s.fault ≠ none

/-- No agent has a step. -/
def Halted (s : State) : Prop := ∀ t, ¬ Moves s t

/-- A stuck state (40_execution R105). -/
def Stuck (s : State) : Prop := Halted s ∧ ¬ Final s ∧ ¬ Faulted s

/-- A finite execution that ends in `s` counts (40_execution R79): SEQ has no step left, nor has SHE where ENGINE_FAIR
holds. Where it does not hold, an execution in which SHE never takes the step it has is weakly fair to SEQ alone. -/
def MayEnd (s : State) : Prop :=
  (∀ t, ¬ SeqMoves s t) ∧ (Config.engineFair = true → ∀ t, ¬ SheMoves s t)

/-- A claim about a run from `s` (40_execution R106), over every execution that counts, finite or infinite: none is infinite,
and wherever one ends, the end is final and meets the postcondition. Faulted, stuck and hanging runs refute it, and so does
one that ends with a word the shift engine never takes. -/
def Claim (s : State) (post : State → Prop) : Prop :=
  (∀ t, Run s t → MayEnd t → Final t ∧ post t) ∧ ∀ σ, σ 0 = s → ¬ Hang σ

/-- `n` steps of SEQ for command `i` with no step of SHE between them. -/
def execRun (i : Instr) (n : Nat) (s : State) : Host.Outcome State Fault Refusal :=
  match n with
  | 0 => .next s
  | n + 1 =>
    match exec i s with
    | .next t => execRun i n t
    | .fault r => .fault r
    | .refused r => .refused r

/-! ### Reading the traces -/

/-- The bit a wire event puts in a frame: an edge while chip select is asserted (10_state R37). -/
def frameBit (e : WEvent) : List Bool :=
  match e with
  | .edge b .asserted _ _ => [b]
  | _ => []

/-- The frame bits of a wire trace (10_state R37). -/
def frameBits (w : List WEvent) : List Bool := w.flatMap frameBit

/-- The frames of a wire trace: its frame bits, split at each `Cs(Released)` (10_state R37). -/
def frames (w : List WEvent) : List (List Bool) :=
  match w with
  | [] => [[]]
  | e :: rest =>
    if e = .cs .released then [] :: frames rest
    else
      match frames rest with
      | [] => [frameBit e]
      | f :: fs => (frameBit e ++ f) :: fs

/-- A rising clock edge (10_state R36). -/
def isEdge (e : WEvent) : Bool :=
  match e with
  | .edge _ _ _ _ => true
  | _ => false

/-- What breaks a frame: a release or a glitch (10_state R37). -/
def breaksFrame (e : WEvent) : Bool :=
  match e with
  | .cs .released => true
  | .glitch _ => true
  | _ => false

/-- The receiver sees one unbroken frame in a transaction's wire events: no release and no glitch falls between the first and
the last edge (10_state R37). -/
def UnbrokenFrame (w : List WEvent) : Prop :=
  ∀ (before between after : List WEvent) (e f : WEvent), w = before ++ e :: (between ++ f :: after) →
    isEdge e = true → isEdge f = true → ∀ x ∈ between, breaksFrame x = false

/-- The chip select a wire event was recorded under, or set (10_state R36). -/
def wireCs (e : WEvent) : CsLevel :=
  match e with
  | .cs level => level
  | .edge _ cs _ _ => cs
  | .glitch cs => cs

/-- The bit of an edge the shift engine made. -/
def hwBit (e : WEvent) : List Bool :=
  match e with
  | .edge b _ .hw _ => [b]
  | _ => []

/-- The bits the shift engine has put on the wire, in order. -/
def hwBits (w : List WEvent) : List Bool := w.flatMap hwBit

/-- The low `k` bits of a value, most significant first (20_memory R44). -/
def wordBits (v : Half) (k : Nat) : List Bool :=
  match k with
  | 0 => []
  | k + 1 => v.getLsbD k :: wordBits v k

/-- The bits of a queued word, most significant first (20_memory R44). -/
def queueBits (e : REvent) : List Bool :=
  match e with
  | .queue v w16 => wordBits v (widthOf w16)
  | _ => []

/-- The bits of every word queued so far, in the order they were queued. -/
def queuedBits (r : List REvent) : List Bool := r.flatMap queueBits

/-- The value of a Queue event. -/
def queueValue (e : REvent) : List Half :=
  match e with
  | .queue v _ => [v]
  | _ => []

/-- The values queued so far, in order. -/
def queuedValues (r : List REvent) : List Half := r.flatMap queueValue

/-- The bits SR still holds. -/
def srBits (s : State) : List Bool :=
  match s.sr with
  | some r => wordBits r.v r.k
  | none => []

/-- The bits TXH still holds. -/
def txhBits (s : State) : List Bool :=
  match s.txh with
  | some w => wordBits w.v (widthOf w.w16)
  | none => []

/-- The bits queued but not yet on the wire: those of SR, then those of TXH (10_state R30). -/
def pendingBits (s : State) : List Bool := srBits s ++ txhBits s

/-! ### Invariants -/

/-- A captured word inside the source's domain: a divider of 1..255, and no bits above its width (40_execution R89). -/
def WordInDomain (v : Half) (w16 : Bool) (div : Byte) : Prop :=
  div ≠ 0#8 ∧ (w16 = false → v.extractLsb' 8 8 = 0#8)

/-- The shift engine's words are in their domain, SR counts 1 to its width, and a word is present only while the peripheral
is an enabled master (10_state R28, 40_execution R89, R101). -/
def EngineOk (s : State) : Prop :=
  (∀ w, s.txh = some w → WordInDomain w.v w.w16 w.div) ∧
  (∀ r, s.sr = some r → WordInDomain r.v r.w16 r.div ∧ 1 ≤ r.k ∧ r.k ≤ widthOf r.w16) ∧
  (s.idle = false → s.en = true ∧ s.mstr = true)

/-- The wire carries exactly the queued words, in order, most significant bit first, but for the bits still outstanding
(20_memory R44, R52, R54). -/
def WireOk (s : State) : Prop := hwBits s.wtrace ++ pendingBits s = queuedBits s.rtrace

/-- Without a guard chip select is always asserted (10_state R34). -/
def CsOk (s : State) : Prop := Config.guardPresent = false → s.cs = .asserted

/-- The positions of a bracketed command between its select and its release (44_bracketed R127, R128, 46_pixel_stream
R130). -/
def insideBracket (c : Instr) (k : Nat) : Bool :=
  match c with
  | .wbv _ _ => decide (1 ≤ k ∧ k ≤ 4)
  | .wseq _ _ _ => decide (1 ≤ k ∧ k ≤ 9)
  | .wpix _ => decide (1 ≤ k ∧ k ≤ 21)
  | _ => false

/-- Between a bracketed command's select and its release chip select is asserted. -/
def BracketOk (s : State) : Prop :=
  ∀ c k l, s.phase = .running c k l → insideBracket c k = true → s.cs = .asserted

/-- The steps the shift engine needs to drain what is outstanding: a SHIFT a bit, and a LOAD for a word in TXH
(40_execution R102, R103). -/
def drainSteps (s : State) : Nat :=
  (match s.sr with
    | some r => r.k
    | none => 0) +
  (match s.txh with
    | some w => 1 + widthOf w.w16
    | none => 0)

/-- The command pointer is inside the stream, and a running command is the one the stream spells there (10_state R15, R16,
30_encoding R66). -/
def StreamOk (s : State) : Prop :=
  s.cp ≤ s.stream.length ∧
  ∀ c k l, s.phase = .running c k l → s.cp < s.stream.length ∧ decode (s.stream.drop s.cp) = .ok c

/-- What INIT has established, and what a running INIT has established so far (42_init_select R120, 70_reset R156). -/
def InitOk (s : State) : Prop :=
  (s.initDone = true → s.unlocked = true ∧ s.mstr = true ∧ s.dirData = true ∧ s.dirClk = true) ∧
  ∀ k l, s.phase = .running .init k l →
    (1 ≤ k → s.dirData = true) ∧ (2 ≤ k → s.dirClk = true) ∧ (4 ≤ k → s.unlocked = true) ∧ (5 ≤ k → s.mstr = true)

/-- A command of S-class other than `init` runs only after INIT (42_init_select R119). -/
def StartedOk (s : State) : Prop :=
  ∀ c k l, s.phase = .running c k l → c.isSClass = true → c ≠ .init → s.initDone = true

/-- The positions of a command at which the last spin was a full drain and nothing has been queued since: the rest of a
framing bit, and the release of `wseq` and `wpix` (44_bracketed R128, 45_single_bit R129, 46_pixel_stream R130). -/
def drainedAt (c : Instr) (k : Nat) : Bool :=
  match c with
  | .wbit _ _ => decide (1 ≤ k ∧ k ≤ 6)
  | .wseq _ _ _ => decide (9 ≤ k ∧ k ≤ 10)
  | .wpix _ => decide (3 ≤ k ∧ k ≤ 8) || decide (21 ≤ k ∧ k ≤ 22)
  | _ => false

/-- The positions of a framing bit between its uDisable and its uEnable (45_single_bit R129). -/
def disabledAt (c : Instr) (k : Nat) : Bool :=
  match c with
  | .wbit _ _ => decide (2 ≤ k ∧ k ≤ 5)
  | .wpix _ => decide (4 ≤ k ∧ k ≤ 7)
  | _ => false

/-- Drained positions have `STATUS.IDLE = 1`, and between a framing bit's uDisable and uEnable `CTRL.EN = 0`. -/
def DrainOk (s : State) : Prop :=
  ∀ c k l, s.phase = .running c k l →
    (drainedAt c k = true → s.idle = true) ∧ (disabledAt c k = true → s.en = false)

/-- The positions just before a body's uSetCfg, and just before its uWriteTDR (43_queuing R123, R124). -/
def configAt (c : Instr) (k : Nat) : Bool :=
  match c with
  | .wbyte _ => k == 1
  | .wword _ => k == 1
  | .wrep _ _ => k == 1
  | .wbv _ _ => k == 2
  | .wseq _ _ _ => k == 2 || k == 6
  | .wpix _ => k == 9 || k == 12 || k == 15 || k == 18
  | _ => false

/-- The positions just before a body's uWriteTDR (43_queuing R123, R124). -/
def writeAt (c : Instr) (k : Nat) : Bool :=
  match c with
  | .wbyte _ => k == 2
  | .wword _ => k == 2
  | .wrep _ _ => k == 2
  | .wbv _ _ => k == 3
  | .wseq _ _ _ => k == 3 || k == 7
  | .wpix _ => k == 10 || k == 13 || k == 16 || k == 19
  | _ => false

/-- The width a queuing command's bodies write with: 16 bits for `wword`, 8 for the others (43_queuing R123, R124). -/
def bodyWidth (c : Instr) : Bool :=
  match c with
  | .wword _ => true
  | _ => false

/-- Between a body's uSpinTXE and its uWriteTDR the holding register is empty, and at the uWriteTDR width and divider are the
body's own (43_queuing R123). -/
def WriteOk (s : State) : Prop :=
  ∀ c k l, s.phase = .running c k l →
    (configAt c k = true → s.txe = true) ∧
    (writeAt c k = true → s.txe = true ∧ s.w16 = bodyWidth c ∧ s.div = Config.divT)

/-! ### The states a µop leaves, for the completion statements -/

/-- After a spin that completes: one Poll event, and the command goes on at `k`, `l` (40_execution R84). -/
def afterPoll (s : State) (i : Instr) (k : Nat) (l : Locals) : State :=
  { s with rtrace := s.rtrace ++ [.poll s.txe s.idle], phase := .running i k l }

/-- After uSetCfg with the transport's divider (40_execution R88). -/
def afterConfig (s : State) (w16 : Bool) (i : Instr) (k : Nat) (l : Locals) : State :=
  { s with
    w16 := w16, div := Config.divT, rtrace := s.rtrace ++ [.cfg w16 Config.divT], phase := .running i k l }

/-- After uWriteTDR: TXH holds the value with the captured width and divider (40_execution R89). -/
def afterQueue (s : State) (v : Half) (i : Instr) (k : Nat) (l : Locals) : State :=
  { s with
    txh := some { v := v, w16 := s.w16, div := s.div }, rtrace := s.rtrace ++ [.queue v s.w16]
    phase := .running i k l }

/-- After a select or a release: the event, and with a guard the level and its wire event (40_execution R97, R98). -/
def afterGuard (s : State) (e : REvent) (level : CsLevel) (i : Instr) (k : Nat) (l : Locals) : State :=
  { s with
    rtrace := s.rtrace ++ [e]
    cs := if Config.guardPresent then level else s.cs
    wtrace := s.wtrace ++ (if Config.guardPresent then [.cs level] else [])
    phase := .running i k l }

/-- After a µop whose only effect is its event. -/
def afterEvent (s : State) (e : REvent) (i : Instr) (k : Nat) (l : Locals) : State :=
  { s with rtrace := s.rtrace ++ [e], phase := .running i k l }

/-- After a fault (60_exceptions R136). -/
def afterFault (s : State) (c : FaultCode) : State :=
  { s with
    fault := some c, faultCp := s.cp, faultWord := s.stream.getD s.cp 0#32, rtrace := s.rtrace ++ [.fault c] }

/-- What uWriteTDR needs (40_execution R89): an enabled master, TXH empty, a value within the width, a divider. -/
def CanQueue (s : State) (v : Half) : Prop :=
  s.en = true ∧ s.mstr = true ∧ s.txh = none ∧ (s.w16 = false → v.extractLsb' 8 8 = 0#8) ∧ s.div ≠ 0#8

/-- What uSetCfg needs (40_execution R88). -/
def CanConfig (s : State) : Prop := s.unlocked = true ∧ s.txh = none

/-- The position at which a straight-line or bracketed command has no µop left; `wrep` has none left at its loop test
instead (40_execution R82). -/
def lastPos (i : Instr) : Nat :=
  match i with
  | .init => 7
  | .wbyte _ => 3
  | .wword _ => 3
  | .wbv _ _ => 5
  | .wseq _ _ _ => 10
  | .wbit _ _ => 6
  | .wpix _ => 22
  | _ => 1

/-! ### The register trace of a whole command -/

/-- An event that is no Poll: the number of polls is never fixed (40_execution R84, 93_implementation_defined U17). -/
def isNoPoll (e : REvent) : Bool :=
  match e with
  | .poll _ _ => false
  | _ => true

/-- A register trace without its polls. -/
def noPolls (r : List REvent) : List REvent := r.filter isNoPoll

/-- The events of a writeByte body (43_queuing R123). -/
def byteEvents (b : Byte) : List REvent := [.cfg false Config.divT, .queue (zext16 b) false]

/-- The event that puts a bit on the data latch (45_single_bit R129). -/
def dataEvent (b : Bool) : REvent := if b then .pinHigh .data else .pinLow .data

/-- The events of a writeSingleBit body (45_single_bit R129). -/
def bitEvents (b : Bool) : List REvent := [.disable, dataEvent b, .pinHigh .clk, .pinLow .clk, .enable]

/-- The events of writing a list of bytes. -/
def bytesEvents (bs : List Byte) : List REvent := bs.flatMap byteEvents

/-- The adjusted window bytes of `wseq` from index `i` on, `n` of them (44_bracketed R128); a byte that is not admitted is
never reached, and stands here as 0. -/
def seqBytes (mem : List Host.Cell) (tsel : BitVec 3) (addr : Word) (i n : Nat) : List Byte :=
  match n with
  | 0 => []
  | n + 1 => Config.adjust tsel ((windowByte mem addr i).getD 0#8) :: seqBytes mem tsel addr (i + 1) n

/-- The events after the last byte of a bracketed, transformed transaction: the hook, its bytes, the release
(44_bracketed R128, 46_pixel_stream R130). -/
def tailEvents (tsel : BitVec 3) (len : Word) : List REvent :=
  .postBlock len.toNat :: (bytesEvents (Config.postBlock tsel len.toNat) ++ [.release])

/-- The three adjusted channel bytes of a pixel, in strict call order (46_pixel_stream R130 step 3b). -/
def pixBytes (a : PixArgs) (σ : Config.PsState) : List Byte :=
  [Config.adjust a.tsel (Config.psCh0 σ), Config.adjust a.tsel (Config.psCh1 σ), Config.adjust a.tsel (Config.psCh2 σ)]

/-- The framing bit's events, if the stream has framing bits (46_pixel_stream R130 step 3a). -/
def pixFrame (a : PixArgs) : List REvent := if a.sbf then bitEvents (selectedBit a.fbyte a.fbidx) else []

/-- The events of `n` pixels from source state `σ` on (46_pixel_stream R130 step 3). -/
def pixEvents (a : PixArgs) (σ : Config.PsState) (n : Nat) : List REvent :=
  match n with
  | 0 => []
  | n + 1 => pixFrame a ++ bytesEvents (pixBytes a σ) ++ pixEvents a (pixAdvance σ) n

/-- The register trace of a whole fault-free command without its polls, as the command's rule gives it (41_primitives R108 to
R118, 42_init_select R120 to R122, 43_queuing R123 to R125, 44_bracketed R126 to R128, 45_single_bit R129, 46_pixel_stream
R130). `w16` is CTRL.W16 when the command starts. -/
def script (i : Instr) (mem : List Host.Cell) (w16 : Bool) : List REvent :=
  match i with
  | .init => [.pinOut .data, .pinOut .clk, .release, .unlock, .master, .cfg false Config.divT, .enable]
  | .sel => [.select]
  | .rel => [.release]
  | .wbyte b => byteEvents b
  | .wword w => [.cfg true Config.divT, .queue w true]
  | .widle => []
  | .wrep b n => bytesEvents (List.replicate n.toNat b)
  | .wbv b n => .select :: (bytesEvents (List.replicate n.toNat b) ++ [.release])
  | .wseq t a n => .select :: (bytesEvents (seqBytes mem t a 0 n.toNat) ++ tailEvents t n)
  | .wbit b x => bitEvents (selectedBit b x)
  | .wpix a =>
    match window mem a.addr a.len with
    | none => [.select]
    | some w => .select :: (pixEvents a (pixSource a w) (a.len.toNat / pixStep a) ++ tailEvents a.tsel a.len)
  | .pSpintxe => []
  | .pSpinidle => []
  | .pCfg w d => [.cfg w d]
  | .pWtdr v => [.queue v w16]
  | .pEn => [.enable]
  | .pDis => [.disable]
  | .pUnlock => [.unlock]
  | .pMaster => [.master]
  | .pPinout p => [.pinOut p]
  | .pPinhi p => [.pinHigh p]
  | .pPinlo p => [.pinLow p]

/-- The channel bytes a running pixel stream has still to queue: three for each whole pixel left, and what is left of the one
it is in (46_pixel_stream R130 step 3, R131). -/
def channelLeft (a : PixArgs) (k : Nat) (l : Locals) : Nat :=
  if k ≤ 1 then 3 * (a.len.toNat / pixStep a)
  else if k = 2 then 3 * ((l.rem - pixStep a) / pixStep a)
  else if k ≤ 10 then 3 * ((l.rem - pixStep a) / pixStep a) + 3
  else if k ≤ 13 then 3 * ((l.rem - pixStep a) / pixStep a) + 2
  else if k ≤ 16 then 3 * ((l.rem - pixStep a) / pixStep a) + 1
  else 0

/-- The framing bits a running pixel stream has still to start: one for each pixel left if SBF = 1, none otherwise
(46_pixel_stream R130 step 3a, R131). -/
def framesLeft (a : PixArgs) (k : Nat) (l : Locals) : Nat :=
  if a.sbf = false then 0
  else if k ≤ 1 then a.len.toNat / pixStep a
  else if k = 2 then (l.rem - pixStep a) / pixStep a
  else if k = 3 then (l.rem - pixStep a) / pixStep a + 1
  else if k ≤ 16 then (l.rem - pixStep a) / pixStep a
  else 0

/-- What a one-µop command has left: its event before the µop, nothing after it. -/
def restOne (e : List REvent) (k : Nat) : List REvent := if k = 0 then e else []

/-- What is left of `n` pixels at the loop test, `σ` being the next pixel's source state. -/
def restPixels (a : PixArgs) (σ : Config.PsState) (rem : Nat) : List REvent :=
  pixEvents a σ (rem / pixStep a) ++ tailEvents a.tsel a.len

/-- What is left inside a pixel, after its framing bit: the last `n` events of its three bytes, then the other pixels. -/
def restTriplet (a : PixArgs) (l : Locals) (n : Nat) : List REvent :=
  (bytesEvents (pixBytes a l.sigma)).drop n ++ restPixels a (pixAdvance l.sigma) (l.rem - pixStep a)

/-- What is left inside a pixel's framing bit from its `n`-th event on. -/
def restFrame (a : PixArgs) (l : Locals) (n : Nat) : List REvent :=
  (bitEvents (selectedBit a.fbyte a.fbidx)).drop n ++ restTriplet a l 0

/-- The events a running command has left at position `k` with loop state `l` (40_execution R81). -/
def rest (i : Instr) (mem : List Host.Cell) (w16 : Bool) (k : Nat) (l : Locals) : List REvent :=
  match i with
  | .init => (script .init mem w16).drop k
  | .wbyte b => (byteEvents b).drop (k - 1)
  | .wword w => (script (.wword w) mem w16).drop (k - 1)
  | .wrep b n =>
    match k with
    | 0 => bytesEvents (List.replicate (n.toNat - l.i) b)
    | 1 => byteEvents b ++ bytesEvents (List.replicate (n.toNat - (l.i + 1)) b)
    | 2 => (byteEvents b).drop 1 ++ bytesEvents (List.replicate (n.toNat - (l.i + 1)) b)
    | _ => bytesEvents (List.replicate (n.toNat - (l.i + 1)) b)
  | .wbv b n =>
    match k with
    | 0 => script (.wbv b n) mem w16
    | 1 => bytesEvents (List.replicate (n.toNat - l.i) b) ++ [.release]
    | 2 => byteEvents b ++ bytesEvents (List.replicate (n.toNat - (l.i + 1)) b) ++ [.release]
    | 3 => (byteEvents b).drop 1 ++ bytesEvents (List.replicate (n.toNat - (l.i + 1)) b) ++ [.release]
    | 4 => bytesEvents (List.replicate (n.toNat - (l.i + 1)) b) ++ [.release]
    | _ => []
  | .wseq t a n =>
    match k with
    | 0 => script (.wseq t a n) mem w16
    | 1 => bytesEvents (seqBytes mem t a l.i (n.toNat - l.i)) ++ tailEvents t n
    | 2 => bytesEvents (seqBytes mem t a l.i (n.toNat - l.i)) ++ tailEvents t n
    | 3 => (bytesEvents (seqBytes mem t a l.i (n.toNat - l.i))).drop 1 ++ tailEvents t n
    | 4 => bytesEvents (seqBytes mem t a (l.i + 1) (n.toNat - (l.i + 1))) ++ tailEvents t n
    | 5 => (tailEvents t n).drop 1
    | 6 => bytesEvents l.post ++ [.release]
    | 7 => (bytesEvents l.post).drop 1 ++ [.release]
    | 8 => bytesEvents l.post.tail ++ [.release]
    | 9 => [.release]
    | _ => []
  | .wbit b x => (bitEvents (selectedBit b x)).drop (k - 1)
  | .wpix a =>
    match k with
    | 0 => script (.wpix a) mem w16
    | 1 => (script (.wpix a) mem w16).drop 1
    | 2 => restPixels a (pixAdvance l.sigma) (l.rem - pixStep a)
    | 3 => restFrame a l 0
    | 4 => restFrame a l 1
    | 5 => restFrame a l 2
    | 6 => restFrame a l 3
    | 7 => restFrame a l 4
    | 8 => restTriplet a l 0
    | 9 => restTriplet a l 0
    | 10 => restTriplet a l 1
    | 11 => restTriplet a l 2
    | 12 => restTriplet a l 2
    | 13 => restTriplet a l 3
    | 14 => restTriplet a l 4
    | 15 => restTriplet a l 4
    | 16 => restTriplet a l 5
    | 17 => (tailEvents a.tsel a.len).drop 1
    | 18 => bytesEvents l.post ++ [.release]
    | 19 => (bytesEvents l.post).drop 1 ++ [.release]
    | 20 => bytesEvents l.post.tail ++ [.release]
    | 21 => [.release]
    | _ => []
  | c => restOne (script c mem w16) k

/-- The loop state of a running command is one its program can be in: loop indices inside the loop, post-block bytes left
where one is being written, whole pixels left. -/
def localsOk (i : Instr) (k : Nat) (l : Locals) : Prop :=
  match i with
  | .wrep _ n => (1 ≤ k ∧ k ≤ 3 → l.i < n.toNat) ∧ k ≤ 3
  | .wbv _ n => (k ≤ 1 → l.i = 0) ∧ (2 ≤ k ∧ k ≤ 4 → l.i < n.toNat)
  | .wseq _ _ n => (k ≤ 1 → l.i = 0) ∧ (2 ≤ k ∧ k ≤ 4 → l.i < n.toNat) ∧ (6 ≤ k ∧ k ≤ 8 → l.post ≠ [])
  | .wpix a =>
    a.len.toNat % pixStep a = 0 ∧
    (2 ≤ k ∧ k ≤ 16 → l.rem % pixStep a = 0 ∧ 0 < l.rem) ∧
    (3 ≤ k ∧ k ≤ 8 → a.sbf = true) ∧ (18 ≤ k ∧ k ≤ 20 → l.post ≠ [])
  | _ => True

/-- A command runs at a position its program can be in. -/
def Progressing (s : State) : Prop := ∀ c k l, s.phase = .running c k l → localsOk c k l

end Sys2Proof.Safety
end

