-- ==== Sys2Proof/Certificates/Slice0/Obligations.lean ====
section
/-! DEFINITION. The statements for the provers. Each is about every state unless it says otherwise; a conclusion of the form
`exec i s = .next t` with `t` a record update of `s` states the command's effect and its frame at once: every field the
update does not name, the launch memory among them, is unchanged. `exec i s` is SEQ's step for the running command `i`
(40_execution R81), so a µop's statement is about the position before it. The numbers of the
positions are the model's own (log 16), and so are `turn`, `schedIx` and `drawIx` (logs 1, 3). -/

open Sys2Proof Sys2Proof.Machine Sys2Proof.Safety

/-! ### Encoding -/

/-- Decoding an encoded well-formed command gives it back, whatever words follow (30_encoding R62, R63, R65, R67). -/
def Obligations.DecodeReadsBackEveryEncoding : Prop :=
  ∀ (i : Instr) (after : List Word), i.wellFormed = true → decode (encode i ++ after) = .ok i

/-- A word list decodes to a command only if the command is well-formed and its words stand there: no two word lists spell
one command (30_encoding R62, R69, R70). -/
def Obligations.DecodedWordsAreTheEncoding : Prop :=
  ∀ (ws : List Word) (i : Instr), decode ws = .ok i → i.wellFormed = true ∧ ws.take (1 + i.nExt) = encode i

/-- R71: over all 2^32 head words, a word matches exactly one row of R67 and passes R70 (and the decoder accepts it), or it is
ILLEGAL_COMMAND. -/
def Obligations.HeadWordMatchesOneRowOrIsIllegal : Prop :=
  ∀ cw : Word,
    (((opcodeRows.filter (fun r => r.selects cw)).length = 1 ∧
        ¬ (cw.extractLsb' 24 8 = 0x82#8 ∧ cw.extractLsb' 0 8 = 0#8) ∧
        ¬ (cw.extractLsb' 24 8 = 0x0B#8 ∧ 6 ≤ (cw.extractLsb' 16 3).toNat)) ∧
      ∃ f, decodeHead cw = .ok f) ∨
    (¬ ((opcodeRows.filter (fun r => r.selects cw)).length = 1 ∧
        ¬ (cw.extractLsb' 24 8 = 0x82#8 ∧ cw.extractLsb' 0 8 = 0#8) ∧
        ¬ (cw.extractLsb' 24 8 = 0x0B#8 ∧ 6 ≤ (cw.extractLsb' 16 3).toNat)) ∧
      ∃ e, decodeHead cw = .error e ∧ decodeFault e = .illegalCommand)

/-- Words written out in the spec's test vectors decode to the commands the spec names (95_test_vectors sections 1, 2, 3;
`p.cfg w=16, div=4` is 41_primitives R110's example), and the five pseudo-instructions assemble to the words of their
expansions (30_encoding R75). -/
def Obligations.VectorWordsDecode : Prop :=
  decode [0x01000000#32] = .ok .init ∧
  decode [0x040000AA#32] = .ok (.wbyte 0xAA#8) ∧
  decode [0x05001234#32] = .ok (.wword 0x1234#16) ∧
  decode [0x080000FF#32, 5#32] = .ok (.wbv 0xFF#8 5#32) ∧
  decode [0x09200000#32, 0x100#32, 3#32] = .ok (.wseq 1#3 0x100#32 3#32) ∧
  decode [0x0A00077F#32] = .ok (.wbit 0x7F#8 7#3) ∧
  decode [0x0B1A01FF#32, 0x200#32, 8#32, 1#32] =
    .ok (.wpix { tsel := 0#3, sbf := true, adv := true, order := .grb, skip := 1#8, scale := 0xFF#8, addr := 0x200#32,
                 len := 8#32, fbidx := 0#3, fbyte := 1#8 }) ∧
  decode [0x82000104#32] = .ok (.pCfg true 4#8) ∧
  decode [0x830000AA#32] = .ok (.pWtdr 0x00AA#16) ∧
  decode [0x89000001#32] = .ok (.pPinhi .clk) ∧
  decode [0x82000100#32] = .error .illegalValue ∧
  decode [0x0C000000#32] = .error .illegalOpcode ∧
  (∀ (v : Byte) (n : Word), assemble (expandPseudo (.wbvDrained v n)) =
    [0x02000000#32, encodeHead (.wrep v n), n, 0x06000000#32, 0x03000000#32]) ∧
  assemble (expandPseudo .wbit1) = [0x0A000001#32] ∧
  assemble (expandPseudo .wbit0) = [0x0A000000#32] ∧
  (∀ b : Byte, assemble (expandPseudo (.wbyteSync b)) = [encodeHead (.wbyte b), 0x06000000#32]) ∧
  (∀ w : Half, assemble (expandPseudo (.frame16 w)) =
    [0x02000000#32, encodeHead (.wword w), 0x06000000#32, 0x03000000#32])

/-! ### The step -/

/-- Where the words at CP decode to a command, or a command is running, and SHE has no step, the block's step is that
command's `exec`; where SHE has one too and `turn` names SEQ (the model's choice of who moves, log 1), it is the same with
the next scheduling choice drawn. -/
def Obligations.StepRunsTheDecodedCommand : Prop :=
  ∀ (s : State) (i : Instr), s.fault = none →
    ((s.phase = .idle ∧ s.cp < s.stream.length ∧ decode (s.stream.drop s.cp) = .ok i) ∨
      ∃ k l, s.phase = .running i k l) →
    (s.sheReady = false → step s = exec i s) ∧
    (s.sheReady = true → s.turn = .seq → ∀ t, exec i s = .next t →
      step s = .next { t with turn := if Config.schedule t.schedIx then .she else .seq, schedIx := t.schedIx + 1 })

/-- Every step of the block is one transition of one agent, up to the model's own scheduling fields (40_execution R77). -/
def Obligations.StepIsOneAgentsTransition : Prop :=
  ∀ s t : State, step s = .next t →
    ∃ u, Moves s u ∧ t = { u with turn := t.turn, schedIx := t.schedIx }

/-- R78: any agent with an enabled step may take it: for each transition of either agent there is a scheduling choice under
which the block's step takes it, up to the model's own scheduling fields. -/
def Obligations.EveryInterleavingIsAStep : Prop :=
  ∀ s u : State, Moves s u →
    ∃ (a : Agent) (t : State), step { s with turn := a } = .next t ∧ { t with turn := u.turn, schedIx := u.schedIx } = u

/-- A head word that fails a check of R68 to R70, or a PIX command whose EXT3 has a reserved bit, raises ILLEGAL_COMMAND at
decode, before any effect, whatever extension words follow. -/
def Obligations.IllegalWordsFaultAtDecode : Prop :=
  ∀ (s : State) (cw : Word) (ext : List Word), s.fault = none → s.phase = .idle → s.stream.drop s.cp = cw :: ext →
    ((∃ e, decodeHead cw = .error e) ∨
      (decodeHead cw = .ok .pix ∧ 3 ≤ ext.length ∧ (ext.getD 2 0#32).extractLsb' 11 21 ≠ 0#21)) →
    seqStep s = .next { s with
      fault := some .illegalCommand, faultCp := s.cp, faultWord := cw, rtrace := s.rtrace ++ [.fault .illegalCommand] }

/-- R66: an extension word beyond the end of the stream is TRUNCATED_COMMAND, before any effect. -/
def Obligations.TruncatedCommandFaultsAtDecode : Prop :=
  ∀ (s : State) (i : Instr), s.fault = none → s.phase = .idle → i.wellFormed = true →
    s.stream[s.cp]? = some (encodeHead i) → s.stream.length ≤ s.cp + i.nExt →
    seqStep s = .next { s with
      fault := some .truncatedCommand, faultCp := s.cp, faultWord := encodeHead i
      rtrace := s.rtrace ++ [.fault .truncatedCommand] }

/-- An S-class command other than INIT faults with NOT_INITIALISED at decode while INIT_DONE = 0, whatever its operands are
(42_init_select R119), and `init` faults with REINIT while INIT_DONE = 1 (R120). -/
def Obligations.InitialisationIsCheckedAtDecode : Prop :=
  (∀ (i : Instr) (s : State), i.isSClass = true → i ≠ .init → s.phase = .idle → s.initDone = false →
    exec i s = .next (afterFault s .notInitialised)) ∧
  (∀ s : State, s.phase = .idle → s.initDone = true → exec .init s = .next (afterFault s .reinit))

/-- The decode step of a command that passes its checks sets PHASE to Running at the program's start, changes nothing else
and records nothing (40_execution R80): P-class commands in any state (R107), `init` before INIT, the other S-class commands
after it, `wseq` and `wpix` where their window and pixel checks pass. -/
def Obligations.DecodeStepStartsTheCommand : Prop :=
  ∀ (i : Instr) (s : State), s.phase = .idle →
    (i.isSClass = false ∨ (i = .init ∧ s.initDone = false) ∨
      (i.isSClass = true ∧ i ≠ .init ∧ s.initDone = true ∧
        (∀ t a n, i = .wseq t a n → a.toNat + n.toNat ≤ 2 ^ 32) ∧
        (∀ p, i = .wpix p → p.addr.toNat + p.len.toNat ≤ 2 ^ 32 ∧ p.len.toNat % (3 + p.skip.toNat) = 0))) →
    exec i s = .next { s with phase := .running i 0 { i := 0, rem := 0, sigma := 0, post := [] } }

/-- A window that passes 2^32 is ADDRESS_RANGE at decode, and comes before PARTIAL_PIXEL; a length that is not a whole number
of pixels is PARTIAL_PIXEL (20_memory R41, 46_pixel_stream R130, 60_exceptions R138). -/
def Obligations.WindowAndPixelChecksFaultAtDecode : Prop :=
  (∀ (t : BitVec 3) (a n : Word) (s : State), s.phase = .idle → s.initDone = true → 2 ^ 32 < a.toNat + n.toNat →
    exec (.wseq t a n) s = .next (afterFault s .addressRange)) ∧
  (∀ (p : PixArgs) (s : State), s.phase = .idle → s.initDone = true → 2 ^ 32 < p.addr.toNat + p.len.toNat →
    exec (.wpix p) s = .next (afterFault s .addressRange)) ∧
  (∀ (p : PixArgs) (s : State), s.phase = .idle → s.initDone = true → p.addr.toNat + p.len.toNat ≤ 2 ^ 32 →
    p.len.toNat % (3 + p.skip.toNat) ≠ 0 → exec (.wpix p) s = .next (afterFault s .partialPixel))

/-- The retire step: `CP <- CP + 1 + n_ext`, `PHASE <- Idle`, no event; INIT's also sets INIT_DONE (40_execution R82,
42_init_select R120). `wrep` retires at its loop test. -/
def Obligations.RetireAdvancesTheCommandPointer : Prop :=
  (∀ (i : Instr) (s : State) (k : Nat) (l : Locals), s.phase = .running i k l → lastPos i ≤ k →
    (∀ b n, i ≠ .wrep b n) →
    exec i s = .next { s with
      cp := s.cp + 1 + i.nExt, phase := .idle, initDone := if i = .init then true else s.initDone }) ∧
  (∀ (b : Byte) (n : Word) (s : State) (l : Locals),
    (s.phase = .running (.wrep b n) 0 l ∧ n.toNat ≤ l.i) ∨ (s.phase = .running (.wrep b n) 3 l ∧ n.toNat ≤ l.i + 1) →
    exec (.wrep b n) s = .next { s with cp := s.cp + 2, phase := .idle })

/-- R85: a µop or a check that raises a fault has no effect but the fault: what `exec` answers with FAULT newly set differs
from the state before only in FAULT, FAULT_CP, FAULT_WORD and the Fault event. -/
def Obligations.FaultsArePrecise : Prop :=
  ∀ (i : Instr) (s t : State) (c : FaultCode), s.fault = none → exec i s = .next t → t.fault = some c →
    t = afterFault s c

/-- Once FAULT is nonzero the sequencer has no step: only SHE moves, and no step changes FAULT, FAULT_CP, FAULT_WORD, CP,
PHASE, CTRL, the pins, CS, INIT_DONE, the lock or RTRACE (60_exceptions R136, R142, 40_execution R104). -/
def Obligations.FaultIsSticky : Prop :=
  ∀ s t : State, s.fault ≠ none → step s = .next t →
    SheMoves s t ∧
    t = { s with txh := t.txh, sr := t.sr, pdata := t.pdata, wtrace := t.wtrace }

/-! ### The P-class µops -/

/-- R86, R87: a spin completes at a poll that reads its flag as 1, with one Poll event; one whose flag is 0 records its Poll
and stays current. The P-class spins and `widle`. -/
def Obligations.SpinsPollOncePerStep : Prop :=
  (∀ (s : State) (l : Locals), s.phase = .running .pSpintxe 0 l →
    (s.txe = true → exec .pSpintxe s = .next (afterPoll s .pSpintxe 1 l)) ∧
    (s.txe = false → exec .pSpintxe s = .next (afterPoll s .pSpintxe 0 l))) ∧
  (∀ (s : State) (l : Locals), s.phase = .running .pSpinidle 0 l →
    (s.idle = true → exec .pSpinidle s = .next (afterPoll s .pSpinidle 1 l)) ∧
    (s.idle = false → exec .pSpinidle s = .next (afterPoll s .pSpinidle 0 l))) ∧
  (∀ (s : State) (l : Locals), s.phase = .running .widle 0 l →
    (s.idle = true → exec .widle s = .next (afterPoll s .widle 1 l)) ∧
    (s.idle = false → exec .widle s = .next (afterPoll s .widle 0 l)))

/-- R88: `p.cfg` sets width and divider and records them where the lock is open and TXH is empty, else faults: the lock
first. -/
def Obligations.CfgSetsWidthAndDivider : Prop :=
  ∀ (w16 : Bool) (div : Byte) (s : State) (l : Locals), s.phase = .running (.pCfg w16 div) 0 l →
    (s.unlocked = true → s.txh = none →
      exec (.pCfg w16 div) s = .next { s with
        w16 := w16, div := div, rtrace := s.rtrace ++ [.cfg w16 div], phase := .running (.pCfg w16 div) 1 l }) ∧
    (s.unlocked = false → exec (.pCfg w16 div) s = .next (afterFault s .cfgLocked)) ∧
    (s.unlocked = true → s.txh ≠ none → exec (.pCfg w16 div) s = .next (afterFault s .cfgWhilePending))

/-- R89: `p.wtdr` fills TXH with the value and the captured width and divider, or raises the first of its four faults. -/
def Obligations.WtdrFillsTheHoldingRegister : Prop :=
  ∀ (v : Half) (s : State) (l : Locals), s.phase = .running (.pWtdr v) 0 l →
    (CanQueue s v → exec (.pWtdr v) s = .next (afterQueue s v (.pWtdr v) 1 l)) ∧
    (s.en = false ∨ s.mstr = false → exec (.pWtdr v) s = .next (afterFault s .writeWhileDisabled)) ∧
    (s.en = true → s.mstr = true → s.txh ≠ none → exec (.pWtdr v) s = .next (afterFault s .overrun)) ∧
    (s.en = true → s.mstr = true → s.txh = none →
      (s.w16 = false ∧ v.extractLsb' 8 8 ≠ 0#8) ∨ s.div = 0#8 →
      exec (.pWtdr v) s = .next (afterFault s .illegalOperand))

/-- `p.en` hands the wires to the peripheral (40_execution R90): a clock that goes from 0 to Z records a Glitch, nothing
else records anything on the wire (41_primitives R112). -/
def Obligations.EnHandsTheWiresToThePeripheral : Prop :=
  ∀ (s : State) (l : Locals), s.phase = .running .pEn 0 l →
    exec .pEn s = .next { s with
      en := true, rtrace := s.rtrace ++ [.enable]
      wtrace := s.wtrace ++ (if s.mstr = false ∧ s.wireClk = .low then [.glitch s.cs] else [])
      phase := .running .pEn 1 l }

/-- `p.dis` on a drained peripheral hands the wires to the latches (40_execution R91): a clock latch at 1 makes a spurious
edge of a drawn bit out of a clock at 0 and a Glitch out of one at Z; an undriven clock pin makes a Glitch out of a clock at
0 (41_primitives R113). With a word outstanding it faults. That the drawn bit is `Config.drawBit s.drawIx`, and that
`drawIx` advances by it, is the model's choice (log 3). -/
def Obligations.DisHandsTheWiresToTheLatches : Prop :=
  ∀ (s : State) (l : Locals), s.phase = .running .pDis 0 l →
    (s.idle = true →
      exec .pDis s = .next { s with
        en := false, rtrace := s.rtrace ++ [.disable]
        wtrace := s.wtrace ++
          (if s.dirClk = true ∧ s.latClk = true ∧ s.wireClk = .low then
            [.edge (Config.drawBit s.drawIx) s.cs .mux none]
          else if s.dirClk = true ∧ s.latClk = true ∧ s.wireClk = .hiZ then [.glitch s.cs]
          else if s.dirClk = false ∧ s.wireClk = .low then [.glitch s.cs]
          else [])
        drawIx := if s.dirClk = true ∧ s.latClk = true ∧ s.wireClk = .low then s.drawIx + 1 else s.drawIx
        phase := .running .pDis 1 l }) ∧
    (s.idle = false → exec .pDis s = .next (afterFault s .disableWhileBusy))

/-- R92 and R93: `p.unlock` opens the lock; `p.master` sets master mode where the lock is open, and never records a wire
event, else faults with CFG_LOCKED. -/
def Obligations.UnlockAndMasterSetTheirBits : Prop :=
  (∀ (s : State) (l : Locals), s.phase = .running .pUnlock 0 l →
    exec .pUnlock s = .next { s with
      unlocked := true, rtrace := s.rtrace ++ [.unlock], phase := .running .pUnlock 1 l }) ∧
  (∀ (s : State) (l : Locals), s.phase = .running .pMaster 0 l →
    (s.unlocked = true →
      exec .pMaster s = .next { s with
        mstr := true, rtrace := s.rtrace ++ [.master], phase := .running .pMaster 1 l }) ∧
    (s.unlocked = false → exec .pMaster s = .next (afterFault s .cfgLocked)))

/-- `p.pinout` makes a pin an output (40_execution R94): only a clock pin that was an input with its latch at 1 records
anything on the wire, a Glitch (41_primitives R116). While the peripheral is enabled it faults. -/
def Obligations.PinoutMakesThePinAnOutput : Prop :=
  ∀ (p : Pin) (s : State) (l : Locals), s.phase = .running (.pPinout p) 0 l →
    (s.en = false →
      exec (.pPinout p) s = .next { s with
        dirData := s.dirData || decide (p = .data), dirClk := s.dirClk || decide (p = .clk)
        rtrace := s.rtrace ++ [.pinOut p]
        wtrace := s.wtrace ++ (if p = .clk ∧ s.dirClk = false ∧ s.latClk = true then [.glitch s.cs] else [])
        phase := .running (.pPinout p) 1 l }) ∧
    (s.en = true → exec (.pPinout p) s = .next (afterFault s .pinConflict))

/-- `p.pinhi` drives an output pin high (40_execution R95): the clock's latch going from 0 to 1 is a manual edge that samples
the data latch, or a draw where the data pin is an input (R100); nothing else records a wire event. It faults while the
peripheral is enabled or the pin is an input. That the draw is `Config.drawBit s.drawIx`, and that `drawIx` advances by it,
is the model's choice (log 3). -/
def Obligations.PinhiDrivesThePinHigh : Prop :=
  ∀ (p : Pin) (s : State) (l : Locals), s.phase = .running (.pPinhi p) 0 l →
    (s.en = false → (p = .data → s.dirData = true) → (p = .clk → s.dirClk = true) →
      exec (.pPinhi p) s = .next { s with
        latData := s.latData || decide (p = .data), latClk := s.latClk || decide (p = .clk)
        rtrace := s.rtrace ++ [.pinHigh p]
        wtrace := s.wtrace ++
          (if p = .clk ∧ s.latClk = false then
            [.edge (if s.dirData then s.latData else Config.drawBit s.drawIx) s.cs .manual none]
          else [])
        drawIx := if p = .clk ∧ s.latClk = false ∧ s.dirData = false then s.drawIx + 1 else s.drawIx
        phase := .running (.pPinhi p) 1 l }) ∧
    (s.en = true ∨ (p = .data ∧ s.dirData = false) ∨ (p = .clk ∧ s.dirClk = false) →
      exec (.pPinhi p) s = .next (afterFault s .pinConflict))

/-- `p.pinlo` drives an output pin low and never records a wire event (40_execution R96, 41_primitives R118). It faults while
the peripheral is enabled or the pin is an input. -/
def Obligations.PinloDrivesThePinLow : Prop :=
  ∀ (p : Pin) (s : State) (l : Locals), s.phase = .running (.pPinlo p) 0 l →
    (s.en = false → (p = .data → s.dirData = true) → (p = .clk → s.dirClk = true) →
      exec (.pPinlo p) s = .next { s with
        latData := s.latData && decide (p ≠ .data), latClk := s.latClk && decide (p ≠ .clk)
        rtrace := s.rtrace ++ [.pinLow p]
        phase := .running (.pPinlo p) 1 l }) ∧
    (s.en = true ∨ (p = .data ∧ s.dirData = false) ∨ (p = .clk ∧ s.dirClk = false) →
      exec (.pPinlo p) s = .next (afterFault s .pinConflict))

/-! ### The S-class commands -/

/-- A whole `init` in a fresh block, its nine steps from the decode to the retire: the µops in R120's order, and the state
R156 names after it. The only wire events are the Glitch of a clock pin that becomes an output with its latch at 1 and the
guard's release. -/
def Obligations.InitConfiguresTheBlock : Prop :=
  ∀ s : State, s.phase = .idle → s.initDone = false → s.en = false → s.txh = none →
    execRun .init 9 s = .next { s with
      cp := s.cp + 1
      initDone := true, en := true, mstr := true, w16 := false, div := Config.divT, unlocked := true
      dirData := true, dirClk := true
      cs := if Config.guardPresent then .released else s.cs
      rtrace := s.rtrace ++
        [.pinOut .data, .pinOut .clk, .release, .unlock, .master, .cfg false Config.divT, .enable]
      wtrace := s.wtrace ++ (if s.dirClk = false ∧ s.latClk = true then [.glitch s.cs] else []) ++
        (if Config.guardPresent then [.cs .released] else []) }

/-- The µops of a running `init`: each answers its effect (42_init_select R120), or the fault its rule gives: PIN_CONFLICT while
the peripheral is enabled, CFG_LOCKED at a closed lock, CFG_WHILE_PENDING with TXH full. -/
def Obligations.InitMicroOpsComplete : Prop :=
  ∀ (s : State) (l : Locals),
    (s.phase = .running .init 0 l → s.en = false →
      exec .init s = .next { s with
        dirData := true, rtrace := s.rtrace ++ [.pinOut .data], phase := .running .init 1 l }) ∧
    (s.phase = .running .init 1 l → s.en = false →
      exec .init s = .next { s with
        dirClk := true, rtrace := s.rtrace ++ [.pinOut .clk]
        wtrace := s.wtrace ++ (if s.dirClk = false ∧ s.latClk = true then [.glitch s.cs] else [])
        phase := .running .init 2 l }) ∧
    (s.phase = .running .init 2 l → exec .init s = .next (afterGuard s .release .released .init 3 l)) ∧
    (s.phase = .running .init 3 l →
      exec .init s = .next { s with
        unlocked := true, rtrace := s.rtrace ++ [.unlock], phase := .running .init 4 l }) ∧
    (s.phase = .running .init 4 l → s.unlocked = true →
      exec .init s = .next { s with
        mstr := true, rtrace := s.rtrace ++ [.master], phase := .running .init 5 l }) ∧
    (s.phase = .running .init 5 l → CanConfig s → exec .init s = .next (afterConfig s false .init 6 l)) ∧
    (s.phase = .running .init 6 l → s.mstr = true →
      exec .init s = .next { s with
        en := true, rtrace := s.rtrace ++ [.enable], phase := .running .init 7 l }) ∧
    (s.phase = .running .init 7 l →
      exec .init s = .next { s with cp := s.cp + 1, phase := .idle, initDone := true }) ∧
    (∀ k, k = 0 ∨ k = 1 → s.phase = .running .init k l → s.en = true →
      exec .init s = .next (afterFault s .pinConflict)) ∧
    (∀ k, k = 4 ∨ k = 5 → s.phase = .running .init k l → s.unlocked = false →
      exec .init s = .next (afterFault s .cfgLocked)) ∧
    (s.phase = .running .init 5 l → s.unlocked = true → s.txh ≠ none →
      exec .init s = .next (afterFault s .cfgWhilePending))

/-- R97 and R98: `sel` and `rel` never block and never fault once running: they record their event, and with a guard set CS
and record the wire event; without one CS and the wire trace are unchanged. -/
def Obligations.SelAndRelMoveChipSelect : Prop :=
  (∀ (s : State) (l : Locals), s.phase = .running .sel 0 l →
    exec .sel s = .next (afterGuard s .select .asserted .sel 1 l)) ∧
  (∀ (s : State) (l : Locals), s.phase = .running .rel 0 l →
    exec .rel s = .next (afterGuard s .release .released .rel 1 l))

/-- The three µops of `wbyte` and of `wword` (43_queuing R123, R124): a spin on TXE, the body's width and the transport's
divider, the value into TXH with the width and divider CTRL then holds. A failed poll records its Poll and stays current
(40_execution R84); a write to a disabled peripheral is WRITE_WHILE_DISABLED. -/
def Obligations.WbyteAndWwordQueueTheirWord : Prop :=
  (∀ (b : Byte) (s : State) (l : Locals),
    (s.phase = .running (.wbyte b) 0 l → s.txe = true → exec (.wbyte b) s = .next (afterPoll s (.wbyte b) 1 l)) ∧
    (s.phase = .running (.wbyte b) 0 l → s.txe = false → exec (.wbyte b) s = .next (afterPoll s (.wbyte b) 0 l)) ∧
    (s.phase = .running (.wbyte b) 1 l → CanConfig s →
      exec (.wbyte b) s = .next (afterConfig s false (.wbyte b) 2 l)) ∧
    (s.phase = .running (.wbyte b) 2 l → CanQueue s (b.setWidth 16) →
      exec (.wbyte b) s = .next (afterQueue s (b.setWidth 16) (.wbyte b) 3 l)) ∧
    (s.phase = .running (.wbyte b) 2 l → s.en = false ∨ s.mstr = false →
      exec (.wbyte b) s = .next (afterFault s .writeWhileDisabled))) ∧
  (∀ (w : Half) (s : State) (l : Locals),
    (s.phase = .running (.wword w) 0 l → s.txe = true → exec (.wword w) s = .next (afterPoll s (.wword w) 1 l)) ∧
    (s.phase = .running (.wword w) 0 l → s.txe = false → exec (.wword w) s = .next (afterPoll s (.wword w) 0 l)) ∧
    (s.phase = .running (.wword w) 1 l → CanConfig s →
      exec (.wword w) s = .next (afterConfig s true (.wword w) 2 l)) ∧
    (s.phase = .running (.wword w) 2 l → CanQueue s w →
      exec (.wword w) s = .next (afterQueue s w (.wword w) 3 l)) ∧
    (s.phase = .running (.wword w) 2 l → s.en = false ∨ s.mstr = false →
      exec (.wword w) s = .next (afterFault s .writeWhileDisabled)))

/-- A whole `wbyte` or `wword`, decode to retire, after INIT, with TXH empty and no step of SHE in between: one poll, one Cfg,
one Queue; the word is in TXH when it retires, not yet on the wire (43_queuing R123, R124, 70_reset R166). -/
def Obligations.WriteRetiresWithTheWordInTxh : Prop :=
  ∀ s : State, s.phase = .idle → s.initDone = true → s.unlocked = true → s.en = true → s.mstr = true → s.txh = none →
    (∀ b : Byte, execRun (.wbyte b) 5 s = .next { s with
      cp := s.cp + 1, w16 := false, div := Config.divT
      txh := some { v := b.setWidth 16, w16 := false, div := Config.divT }
      rtrace := s.rtrace ++ [.poll true s.idle, .cfg false Config.divT, .queue (b.setWidth 16) false] }) ∧
    (∀ w : Half, execRun (.wword w) 5 s = .next { s with
      cp := s.cp + 1, w16 := true, div := Config.divT, txh := some { v := w, w16 := true, div := Config.divT }
      rtrace := s.rtrace ++ [.poll true s.idle, .cfg true Config.divT, .queue w true] })

/-- The steps of `wrep` (44_bracketed R126): at its loop test, entered or ending an iteration, the next byte's spin while the
index is below COUNT; then the byte's Cfg and Queue. A failed poll records its Poll and stays current (40_execution R84); a
write to a disabled peripheral is WRITE_WHILE_DISABLED (43_queuing R123). -/
def Obligations.WrepQueuesByteByByte : Prop :=
  ∀ (b : Byte) (n : Word) (s : State) (l : Locals),
    (s.phase = .running (.wrep b n) 0 l → l.i < n.toNat → s.txe = true →
      exec (.wrep b n) s = .next (afterPoll s (.wrep b n) 1 l)) ∧
    (s.phase = .running (.wrep b n) 1 l → CanConfig s →
      exec (.wrep b n) s = .next (afterConfig s false (.wrep b n) 2 l)) ∧
    (s.phase = .running (.wrep b n) 2 l → CanQueue s (b.setWidth 16) →
      exec (.wrep b n) s = .next (afterQueue s (b.setWidth 16) (.wrep b n) 3 l)) ∧
    (s.phase = .running (.wrep b n) 3 l → l.i + 1 < n.toNat → s.txe = true →
      exec (.wrep b n) s = .next (afterPoll s (.wrep b n) 1 { l with i := l.i + 1 })) ∧
    (∀ k, (k = 0 ∧ l.i < n.toNat) ∨ (k = 3 ∧ l.i + 1 < n.toNat) → s.phase = .running (.wrep b n) k l → s.txe = false →
      exec (.wrep b n) s = .next (afterPoll s (.wrep b n) k l)) ∧
    (s.phase = .running (.wrep b n) 2 l → s.en = false ∨ s.mstr = false →
      exec (.wrep b n) s = .next (afterFault s .writeWhileDisabled))

/-- The steps of `wbv` (44_bracketed R127): the select, the bytes as in `wrep`, and the release at the loop's end with no drain
before it, whether or not words are outstanding. A failed poll records its Poll and stays current (40_execution R84); a write
to a disabled peripheral is WRITE_WHILE_DISABLED (43_queuing R123). -/
def Obligations.WbvReleasesWithoutDraining : Prop :=
  ∀ (b : Byte) (n : Word) (s : State) (l : Locals),
    (s.phase = .running (.wbv b n) 0 l →
      exec (.wbv b n) s = .next (afterGuard s .select .asserted (.wbv b n) 1 l)) ∧
    (s.phase = .running (.wbv b n) 1 l → l.i < n.toNat → s.txe = true →
      exec (.wbv b n) s = .next (afterPoll s (.wbv b n) 2 l)) ∧
    (s.phase = .running (.wbv b n) 2 l → CanConfig s →
      exec (.wbv b n) s = .next (afterConfig s false (.wbv b n) 3 l)) ∧
    (s.phase = .running (.wbv b n) 3 l → CanQueue s (b.setWidth 16) →
      exec (.wbv b n) s = .next (afterQueue s (b.setWidth 16) (.wbv b n) 4 l)) ∧
    (s.phase = .running (.wbv b n) 4 l → l.i + 1 < n.toNat → s.txe = true →
      exec (.wbv b n) s = .next (afterPoll s (.wbv b n) 2 { l with i := l.i + 1 })) ∧
    (s.phase = .running (.wbv b n) 1 l → n.toNat ≤ l.i →
      exec (.wbv b n) s = .next (afterGuard s .release .released (.wbv b n) 5 l)) ∧
    (s.phase = .running (.wbv b n) 4 l → n.toNat ≤ l.i + 1 →
      exec (.wbv b n) s = .next (afterGuard s .release .released (.wbv b n) 5 { l with i := l.i + 1 })) ∧
    (∀ k, (k = 1 ∧ l.i < n.toNat) ∨ (k = 4 ∧ l.i + 1 < n.toNat) → s.phase = .running (.wbv b n) k l → s.txe = false →
      exec (.wbv b n) s = .next (afterPoll s (.wbv b n) k l)) ∧
    (s.phase = .running (.wbv b n) 3 l → s.en = false ∨ s.mstr = false →
      exec (.wbv b n) s = .next (afterFault s .writeWhileDisabled))

/-- The steps of `wseq` (44_bracketed R128) up to the hook: the select; per window byte a spin, the Cfg, and the adjusted byte
into TXH; at the end of the window PostBlock(LEN). A failed poll records its Poll and stays current (40_execution R84); a
write to a disabled peripheral is WRITE_WHILE_DISABLED (43_queuing R123). -/
def Obligations.WseqQueuesAdjustedWindowBytes : Prop :=
  ∀ (t : BitVec 3) (a n : Word) (s : State) (l : Locals),
    (s.phase = .running (.wseq t a n) 0 l →
      exec (.wseq t a n) s = .next (afterGuard s .select .asserted (.wseq t a n) 1 l)) ∧
    (∀ b, s.phase = .running (.wseq t a n) 1 l → l.i < n.toNat → Memory.read s.mem (a.toNat + l.i) = some b →
      s.txe = true → exec (.wseq t a n) s = .next (afterPoll s (.wseq t a n) 2 l)) ∧
    (s.phase = .running (.wseq t a n) 2 l → CanConfig s →
      exec (.wseq t a n) s = .next (afterConfig s false (.wseq t a n) 3 l)) ∧
    (∀ b, s.phase = .running (.wseq t a n) 3 l → Memory.read s.mem (a.toNat + l.i) = some b →
      CanQueue s ((Config.adjust t b).setWidth 16) →
      exec (.wseq t a n) s = .next (afterQueue s ((Config.adjust t b).setWidth 16) (.wseq t a n) 4 l)) ∧
    (∀ b, s.phase = .running (.wseq t a n) 4 l → l.i + 1 < n.toNat → Memory.read s.mem (a.toNat + (l.i + 1)) = some b →
      s.txe = true → exec (.wseq t a n) s = .next (afterPoll s (.wseq t a n) 2 { l with i := l.i + 1 })) ∧
    (s.phase = .running (.wseq t a n) 1 l → n.toNat ≤ l.i →
      exec (.wseq t a n) s = .next (afterEvent s (.postBlock n.toNat) (.wseq t a n) 5 l)) ∧
    (s.phase = .running (.wseq t a n) 4 l → n.toNat ≤ l.i + 1 →
      exec (.wseq t a n) s = .next (afterEvent s (.postBlock n.toNat) (.wseq t a n) 5 { l with i := l.i + 1 })) ∧
    (∀ b k i, (k = 1 ∧ i = l.i) ∨ (k = 4 ∧ i = l.i + 1) → s.phase = .running (.wseq t a n) k l → i < n.toNat →
      Memory.read s.mem (a.toNat + i) = some b → s.txe = false →
      exec (.wseq t a n) s = .next (afterPoll s (.wseq t a n) k l)) ∧
    (∀ b, s.phase = .running (.wseq t a n) 3 l → Memory.read s.mem (a.toNat + l.i) = some b →
      s.en = false ∨ s.mstr = false → exec (.wseq t a n) s = .next (afterFault s .writeWhileDisabled))

/-- The tail of `wseq` (44_bracketed R128): the hook's bytes one by one, unadjusted, then the full drain, then the release. A
failed poll records its Poll and stays current (40_execution R84); a write to a disabled peripheral is WRITE_WHILE_DISABLED
(43_queuing R123). -/
def Obligations.WseqDrainsBeforeItsRelease : Prop :=
  ∀ (t : BitVec 3) (a n : Word) (s : State) (l : Locals) (c : Byte) (cs : List Byte),
    (s.phase = .running (.wseq t a n) 5 l →
      (if Config.postBlock t n.toNat = [] then s.idle = true else s.txe = true) →
      exec (.wseq t a n) s = .next (afterPoll s (.wseq t a n) (if Config.postBlock t n.toNat = [] then 9 else 6)
        { l with post := Config.postBlock t n.toNat })) ∧
    (s.phase = .running (.wseq t a n) 6 l → CanConfig s →
      exec (.wseq t a n) s = .next (afterConfig s false (.wseq t a n) 7 l)) ∧
    (s.phase = .running (.wseq t a n) 7 l → l.post = c :: cs → CanQueue s (c.setWidth 16) →
      exec (.wseq t a n) s = .next (afterQueue s (c.setWidth 16) (.wseq t a n) 8 l)) ∧
    (s.phase = .running (.wseq t a n) 8 l → l.post.tail = c :: cs → s.txe = true →
      exec (.wseq t a n) s = .next (afterPoll s (.wseq t a n) 6 { l with post := c :: cs })) ∧
    (s.phase = .running (.wseq t a n) 8 l → l.post.tail = [] → s.idle = true →
      exec (.wseq t a n) s = .next (afterPoll s (.wseq t a n) 9 { l with post := [] })) ∧
    (s.phase = .running (.wseq t a n) 9 l →
      exec (.wseq t a n) s = .next (afterGuard s .release .released (.wseq t a n) 10 l)) ∧
    (∀ k p, (k = 5 ∧ p = Config.postBlock t n.toNat) ∨ (k = 8 ∧ p = l.post.tail) → s.phase = .running (.wseq t a n) k l →
      (if p = [] then s.idle = false else s.txe = false) →
      exec (.wseq t a n) s = .next (afterPoll s (.wseq t a n) k l)) ∧
    (s.phase = .running (.wseq t a n) 7 l → s.en = false ∨ s.mstr = false →
      exec (.wseq t a n) s = .next (afterFault s .writeWhileDisabled))

/-- The µops of `wbit` after INIT (45_single_bit R129): the drain, whose failed poll stays current (40_execution R84), the
disable, the data latch at the selected bit, the clock latch to 1 and back to 0, the enable. With the clock latch low the one
wire event is the manual edge of the data latch; with it high the disable of an enabled peripheral makes an edge of a drawn
bit, and the clock's rise makes none (70_reset R164). The draw's form is log 3. -/
def Obligations.WbitMicroOpsComplete : Prop :=
  ∀ (b : Byte) (x : BitVec 3) (s : State) (l : Locals),
    (s.phase = .running (.wbit b x) 0 l → s.idle = true →
      exec (.wbit b x) s = .next (afterPoll s (.wbit b x) 1 l)) ∧
    (s.phase = .running (.wbit b x) 0 l → s.idle = false →
      exec (.wbit b x) s = .next (afterPoll s (.wbit b x) 0 l)) ∧
    (s.phase = .running (.wbit b x) 1 l → s.idle = true → s.mstr = true → s.dirClk = true →
      exec (.wbit b x) s = .next { s with
        en := false, rtrace := s.rtrace ++ [.disable]
        wtrace := s.wtrace ++
          (if s.latClk = true ∧ s.en = true then [.edge (Config.drawBit s.drawIx) s.cs .mux none] else [])
        drawIx := if s.latClk = true ∧ s.en = true then s.drawIx + 1 else s.drawIx
        phase := .running (.wbit b x) 2 l }) ∧
    (s.phase = .running (.wbit b x) 2 l → s.en = false → s.dirData = true →
      exec (.wbit b x) s = .next { s with
        latData := b.getLsbD x.toNat
        rtrace := s.rtrace ++ [if b.getLsbD x.toNat then .pinHigh .data else .pinLow .data]
        phase := .running (.wbit b x) 3 l }) ∧
    (s.phase = .running (.wbit b x) 3 l → s.en = false → s.dirData = true → s.dirClk = true →
      exec (.wbit b x) s = .next { s with
        latClk := true, rtrace := s.rtrace ++ [.pinHigh .clk]
        wtrace := s.wtrace ++ (if s.latClk then [] else [.edge s.latData s.cs .manual none])
        phase := .running (.wbit b x) 4 l }) ∧
    (s.phase = .running (.wbit b x) 4 l → s.en = false → s.dirClk = true →
      exec (.wbit b x) s = .next { s with
        latClk := false, rtrace := s.rtrace ++ [.pinLow .clk], phase := .running (.wbit b x) 5 l }) ∧
    (s.phase = .running (.wbit b x) 5 l → s.mstr = true →
      exec (.wbit b x) s = .next { s with
        en := true, rtrace := s.rtrace ++ [.enable], phase := .running (.wbit b x) 6 l })

/-- A whole `wbit` on a drained, initialised block, decode to retire. With the clock latch low it puts exactly one bit on the
wire, the selected one, under the CS it found (45_single_bit R129); with the clock latch high the disable puts a drawn bit
there instead and no manual edge follows (70_reset R164). Either way it leaves the clock latch low and the peripheral
enabled. That the drawn bit is `Config.drawBit s.drawIx`, and that `drawIx` advances by it, is the model's choice (log 3). -/
def Obligations.WbitEmitsItsBitIfTheClockLatchIsLow : Prop :=
  ∀ (b : Byte) (x : BitVec 3) (s : State), s.phase = .idle → s.initDone = true → s.idle = true → s.en = true →
    s.mstr = true → s.dirData = true → s.dirClk = true →
    execRun (.wbit b x) 8 s = .next { s with
      cp := s.cp + 1
      latData := b.getLsbD x.toNat, latClk := false
      rtrace := s.rtrace ++
        [.poll true true, .disable, if b.getLsbD x.toNat then .pinHigh .data else .pinLow .data, .pinHigh .clk,
          .pinLow .clk, .enable]
      wtrace := s.wtrace ++
        [if s.latClk then .edge (Config.drawBit s.drawIx) s.cs .mux none
          else .edge (b.getLsbD x.toNat) s.cs .manual none]
      drawIx := if s.latClk then s.drawIx + 1 else s.drawIx }

/-- The steps of `wpix` to the first channel byte (46_pixel_stream R130): the select; the PixelSource opened on the whole
window and the count set, then the first pixel's spin, on full drain where the stream has framing bits and on TXE where it
has none, or PostBlock(LEN) for an empty stream. A failed poll records its Poll and stays current (40_execution R84). That
the whole window is read here is the model's choice (log 9). -/
def Obligations.WpixOpensItsSourceAndStarts : Prop :=
  ∀ (a : PixArgs) (s : State) (l : Locals) (w : List Byte),
    (s.phase = .running (.wpix a) 0 l →
      exec (.wpix a) s = .next (afterGuard s .select .asserted (.wpix a) 1 l)) ∧
    (s.phase = .running (.wpix a) 1 l → readBytes s.mem a.addr.toNat a.len.toNat = some w →
      (0 < a.len.toNat → a.sbf = true → s.idle = true →
        exec (.wpix a) s = .next (afterPoll s (.wpix a) 3
          { l with sigma := Config.psInit w a.scale a.order true a.adv a.skip, rem := a.len.toNat })) ∧
      (0 < a.len.toNat → a.sbf = false → s.txe = true →
        exec (.wpix a) s = .next (afterPoll s (.wpix a) 9
          { l with sigma := Config.psInit w a.scale a.order true a.adv a.skip, rem := a.len.toNat })) ∧
      (a.len.toNat = 0 →
        exec (.wpix a) s = .next (afterEvent s (.postBlock 0) (.wpix a) 17
          { l with sigma := Config.psInit w a.scale a.order true a.adv a.skip, rem := 0 })) ∧
      (0 < a.len.toNat → (if a.sbf then s.idle = false else s.txe = false) →
        exec (.wpix a) s = .next (afterPoll s (.wpix a) 1 l)))

/-- The steps of `wpix` inside a pixel (46_pixel_stream R130 steps 3b, 3c): three adjusted channel bytes in call order, each a
spin, a Cfg and a Queue; then the source advances and its dithering steps, the count falls by `3 + SKIP`, and the next
pixel's spin or PostBlock(LEN) follows. A failed poll records its Poll and stays current (40_execution R84); a write to a
disabled peripheral is WRITE_WHILE_DISABLED (43_queuing R123). -/
def Obligations.WpixQueuesThreeChannelBytes : Prop :=
  ∀ (a : PixArgs) (s : State) (l : Locals),
    (∀ k, k = 8 ∨ k = 11 ∨ k = 14 → s.phase = .running (.wpix a) k l → s.txe = true →
      exec (.wpix a) s = .next (afterPoll s (.wpix a) (k + 1) l)) ∧
    (∀ k, k = 9 ∨ k = 12 ∨ k = 15 → s.phase = .running (.wpix a) k l → CanConfig s →
      exec (.wpix a) s = .next (afterConfig s false (.wpix a) (k + 1) l)) ∧
    (∀ k k' v, (k = 10 ∧ k' = 11 ∧ v = Config.psCh0 l.sigma) ∨ (k = 13 ∧ k' = 14 ∧ v = Config.psCh1 l.sigma) ∨
        (k = 16 ∧ k' = 2 ∧ v = Config.psCh2 l.sigma) →
      s.phase = .running (.wpix a) k l → CanQueue s ((Config.adjust a.tsel v).setWidth 16) →
      exec (.wpix a) s = .next (afterQueue s ((Config.adjust a.tsel v).setWidth 16) (.wpix a) k' l)) ∧
    (s.phase = .running (.wpix a) 2 l → 3 + a.skip.toNat < l.rem → a.sbf = true → s.idle = true →
      exec (.wpix a) s = .next (afterPoll s (.wpix a) 3
        { l with sigma := Config.psStepDithering (Config.psAdvance l.sigma), rem := l.rem - (3 + a.skip.toNat) })) ∧
    (s.phase = .running (.wpix a) 2 l → 3 + a.skip.toNat < l.rem → a.sbf = false → s.txe = true →
      exec (.wpix a) s = .next (afterPoll s (.wpix a) 9
        { l with sigma := Config.psStepDithering (Config.psAdvance l.sigma), rem := l.rem - (3 + a.skip.toNat) })) ∧
    (s.phase = .running (.wpix a) 2 l → l.rem ≤ 3 + a.skip.toNat →
      exec (.wpix a) s = .next (afterEvent s (.postBlock a.len.toNat) (.wpix a) 17
        { l with sigma := Config.psStepDithering (Config.psAdvance l.sigma), rem := 0 })) ∧
    (∀ k, k = 8 ∨ k = 11 ∨ k = 14 → s.phase = .running (.wpix a) k l → s.txe = false →
      exec (.wpix a) s = .next (afterPoll s (.wpix a) k l)) ∧
    (s.phase = .running (.wpix a) 2 l → 3 + a.skip.toNat < l.rem → (if a.sbf then s.idle = false else s.txe = false) →
      exec (.wpix a) s = .next (afterPoll s (.wpix a) 2 l)) ∧
    (∀ k, k = 10 ∨ k = 13 ∨ k = 16 → s.phase = .running (.wpix a) k l → s.en = false ∨ s.mstr = false →
      exec (.wpix a) s = .next (afterFault s .writeWhileDisabled))

/-- The framing bit inside `wpix` (46_pixel_stream R130 step 3a): the µops of `wbit` on FBYTE and FBIDX. With the clock latch
low the one wire event is the manual edge of the data latch; with it high the disable makes an edge of a drawn bit instead,
and the clock's rise makes none, so the frame is not clean (46_pixel_stream R133, 70_reset R164). The draw's form is log 3. -/
def Obligations.WpixFramingBitMicroOpsComplete : Prop :=
  ∀ (a : PixArgs) (s : State) (l : Locals),
    (s.phase = .running (.wpix a) 3 l → s.idle = true → s.mstr = true → s.dirClk = true →
      exec (.wpix a) s = .next { s with
        en := false, rtrace := s.rtrace ++ [.disable]
        wtrace := s.wtrace ++
          (if s.latClk = true ∧ s.en = true then [.edge (Config.drawBit s.drawIx) s.cs .mux none] else [])
        drawIx := if s.latClk = true ∧ s.en = true then s.drawIx + 1 else s.drawIx
        phase := .running (.wpix a) 4 l }) ∧
    (s.phase = .running (.wpix a) 4 l → s.en = false → s.dirData = true →
      exec (.wpix a) s = .next { s with
        latData := a.fbyte.getLsbD a.fbidx.toNat
        rtrace := s.rtrace ++ [if a.fbyte.getLsbD a.fbidx.toNat then .pinHigh .data else .pinLow .data]
        phase := .running (.wpix a) 5 l }) ∧
    (s.phase = .running (.wpix a) 5 l → s.en = false → s.dirData = true → s.dirClk = true →
      exec (.wpix a) s = .next { s with
        latClk := true, rtrace := s.rtrace ++ [.pinHigh .clk]
        wtrace := s.wtrace ++ (if s.latClk then [] else [.edge s.latData s.cs .manual none])
        phase := .running (.wpix a) 6 l }) ∧
    (s.phase = .running (.wpix a) 6 l → s.en = false → s.dirClk = true →
      exec (.wpix a) s = .next { s with
        latClk := false, rtrace := s.rtrace ++ [.pinLow .clk], phase := .running (.wpix a) 7 l }) ∧
    (s.phase = .running (.wpix a) 7 l → s.mstr = true →
      exec (.wpix a) s = .next { s with
        en := true, rtrace := s.rtrace ++ [.enable], phase := .running (.wpix a) 8 l })

/-- The tail of `wpix` (46_pixel_stream R130 steps 4, 5): the hook's bytes, unadjusted, then the full drain, then the
release. A failed poll records its Poll and stays current (40_execution R84); a write to a disabled peripheral is
WRITE_WHILE_DISABLED (43_queuing R123). -/
def Obligations.WpixDrainsBeforeItsRelease : Prop :=
  ∀ (a : PixArgs) (s : State) (l : Locals) (c : Byte) (cs : List Byte),
    (s.phase = .running (.wpix a) 17 l →
      (if Config.postBlock a.tsel a.len.toNat = [] then s.idle = true else s.txe = true) →
      exec (.wpix a) s = .next (afterPoll s (.wpix a) (if Config.postBlock a.tsel a.len.toNat = [] then 21 else 18)
        { l with post := Config.postBlock a.tsel a.len.toNat })) ∧
    (s.phase = .running (.wpix a) 18 l → CanConfig s →
      exec (.wpix a) s = .next (afterConfig s false (.wpix a) 19 l)) ∧
    (s.phase = .running (.wpix a) 19 l → l.post = c :: cs → CanQueue s (c.setWidth 16) →
      exec (.wpix a) s = .next (afterQueue s (c.setWidth 16) (.wpix a) 20 l)) ∧
    (s.phase = .running (.wpix a) 20 l → l.post.tail = c :: cs → s.txe = true →
      exec (.wpix a) s = .next (afterPoll s (.wpix a) 18 { l with post := c :: cs })) ∧
    (s.phase = .running (.wpix a) 20 l → l.post.tail = [] → s.idle = true →
      exec (.wpix a) s = .next (afterPoll s (.wpix a) 21 { l with post := [] })) ∧
    (s.phase = .running (.wpix a) 21 l →
      exec (.wpix a) s = .next (afterGuard s .release .released (.wpix a) 22 l)) ∧
    (∀ k p, (k = 17 ∧ p = Config.postBlock a.tsel a.len.toNat) ∨ (k = 20 ∧ p = l.post.tail) →
      s.phase = .running (.wpix a) k l → (if p = [] then s.idle = false else s.txe = false) →
      exec (.wpix a) s = .next (afterPoll s (.wpix a) k l)) ∧
    (s.phase = .running (.wpix a) 19 l → s.en = false ∨ s.mstr = false →
      exec (.wpix a) s = .next (afterFault s .writeWhileDisabled))

/-- An empty transaction still selects and releases exactly once (44_bracketed R127, R128, 46_pixel_stream R130); an empty
`wrep` records nothing (R126). With the identity transform, on a drained, initialised block, decode to retire. -/
def Obligations.EmptyTransactionsStillBracket : Prop :=
  ∀ s : State, s.phase = .idle → s.initDone = true → s.idle = true →
    (∀ b : Byte, execRun (.wrep b 0#32) 2 s = .next { s with cp := s.cp + 2 }) ∧
    (∀ b : Byte, execRun (.wbv b 0#32) 4 s = .next { s with
      cp := s.cp + 2, cs := if Config.guardPresent then .released else s.cs
      rtrace := s.rtrace ++ [.select, .release]
      wtrace := s.wtrace ++ (if Config.guardPresent then [.cs .asserted, .cs .released] else []) }) ∧
    (∀ a : Word, execRun (.wseq 0#3 a 0#32) 6 s = .next { s with
      cp := s.cp + 3, cs := if Config.guardPresent then .released else s.cs
      rtrace := s.rtrace ++ [.select, .postBlock 0, .poll true true, .release]
      wtrace := s.wtrace ++ (if Config.guardPresent then [.cs .asserted, .cs .released] else []) }) ∧
    (∀ a : PixArgs, a.tsel = 0#3 → a.len = 0#32 → execRun (.wpix a) 6 s = .next { s with
      cp := s.cp + 4, cs := if Config.guardPresent then .released else s.cs
      rtrace := s.rtrace ++ [.select, .postBlock 0, .poll true true, .release]
      wtrace := s.wtrace ++ (if Config.guardPresent then [.cs .asserted, .cs .released] else []) })

/-- R40: a MemRead of an address the launch memory does not admit gives SEQ no step: `wseq` stops before the byte is queued,
`wpix` before its source is opened, and the block stops once SHE has no step either. The points of the reads are the model's
choice (log 9). -/
def Obligations.BlockedReadGivesTheSequencerNoStep : Prop :=
  (∀ (t : BitVec 3) (a n : Word) (s : State) (l : Locals),
    (s.phase = .running (.wseq t a n) 1 l ∧ l.i < n.toNat ∧ Memory.read s.mem (a.toNat + l.i) = none) ∨
    (s.phase = .running (.wseq t a n) 4 l ∧ l.i + 1 < n.toNat ∧ Memory.read s.mem (a.toNat + (l.i + 1)) = none) →
    exec (.wseq t a n) s = .fault .memReadBlocked ∧
    (s.fault = none → s.sheReady = false → step s = .fault .memReadBlocked)) ∧
  (∀ (a : PixArgs) (s : State) (l : Locals) (j : Nat),
    s.phase = .running (.wpix a) 1 l → j < a.len.toNat → Memory.read s.mem (a.addr.toNat + j) = none →
    exec (.wpix a) s = .fault .memReadBlocked ∧
    (s.fault = none → s.sheReady = false → step s = .fault .memReadBlocked))

/-! ### The wires and the shift engine -/

/-- R100: a clock change from 0 to 1 is an Edge (a manual one with the data wire's bit if the wire is driven, any other with a
draw), Z to 1 and 0 to Z are a Glitch, every other case records nothing. That the draw is `Config.drawBit s.drawIx`, and that
`drawIx` advances by it, is the model's choice (log 3); that the data wire and CS are read after the state change is deduced
(log 21). -/
def Obligations.WireUpdateRecordsRisingClocks : Prop :=
  ∀ (s : State) (o : Origin) (c0 : Level),
    (c0 = .low → s.wireClk = .high → o = .manual → ∀ b, s.wireData = levelOf b →
      s.wireUpdate o c0 = { s with wtrace := s.wtrace ++ [.edge b s.cs .manual none] }) ∧
    (c0 = .low → s.wireClk = .high → (o ≠ .manual ∨ s.wireData = .hiZ) →
      s.wireUpdate o c0 = { s with
        wtrace := s.wtrace ++ [.edge (Config.drawBit s.drawIx) s.cs o none], drawIx := s.drawIx + 1 }) ∧
    ((c0 = .hiZ ∧ s.wireClk = .high) ∨ (c0 = .low ∧ s.wireClk = .hiZ) →
      s.wireUpdate o c0 = { s with wtrace := s.wtrace ++ [.glitch s.cs] }) ∧
    (¬ (c0 = .low ∧ s.wireClk = .high) → ¬ (c0 = .hiZ ∧ s.wireClk = .high) → ¬ (c0 = .low ∧ s.wireClk = .hiZ) →
      s.wireUpdate o c0 = s)

/-- R101: SHE has a step exactly when EN = 1, MSTR = 1 and TXH or SR is not empty; and its step is LOAD (R102) or SHIFT
(R103), which change what their rules name and nothing else. -/
def Obligations.ShiftEngineLoadsAndShifts : Prop :=
  (∀ s : State, (∃ t, SheMoves s t) ↔ s.en = true ∧ s.mstr = true ∧ (s.txh ≠ none ∨ s.sr ≠ none)) ∧
  (∀ (s t : State) (w : TxWord), SheMoves s t → s.sr = none → s.txh = some w →
    t = { s with txh := none, sr := some { v := w.v, w16 := w.w16, div := w.div, k := if w.w16 then 16 else 8 } }) ∧
  (∀ (s t : State) (r : ShiftWord), SheMoves s t → s.sr = some r → 1 ≤ r.k →
    t = { s with
      pdata := r.v.getLsbD (r.k - 1)
      wtrace := s.wtrace ++ [.edge (r.v.getLsbD (r.k - 1)) s.cs .hw (some r.div)]
      sr := if r.k = 1 then none else some { r with k := r.k - 1 } })

/-- A word in TXH leaves in one LOAD and 8 or 16 SHIFT steps, most significant bit first, each edge under the CS of the moment
with the captured divider; PDATA ends at its bit 0 (20_memory R44, 40_execution R102, R103). -/
def Obligations.WordLeavesMostSignificantBitFirst : Prop :=
  ∀ (s : State) (w : TxWord), s.sr = none → s.txh = some w →
    sheStep^[1 + widthOf w.w16] s = { s with
      txh := none, pdata := w.v.getLsbD 0
      wtrace := s.wtrace ++ (wordBits w.v (widthOf w.w16)).map (fun b => .edge b s.cs .hw (some w.div)) }

/-- What is outstanding drains in a fixed number of SHE's steps, each of which is enabled when its turn comes: so a spin on a
word in TXH or SR completes once SHE has taken them (60_exceptions R139, 40_execution R101). -/
def Obligations.ShiftEngineDrainsInBoundedSteps : Prop :=
  ∀ s : State, EngineOk s →
    (sheStep^[drainSteps s] s).idle = true ∧ ∀ n, n < drainSteps s → (sheStep^[n] s).sheReady = true

/-! ### Invariants -/

/-- The shift engine's words stay in their domain, SR's count within its width, and words are present only while the
peripheral is an enabled master (10_state R28, 40_execution R89, R101). -/
def Obligations.EngineInvariantKept : Prop := ∀ s t : State, EngineOk s → step s = .next t → EngineOk t

/-- The wire carries exactly the queued words, in order, most significant bit first: what the shift engine has put on the
wire, then what SR and TXH still hold, is what was queued (20_memory R44, R52). So at full drain every queued bit is on the
wire (R54). -/
def Obligations.WireCarriesTheQueuedWords : Prop :=
  (∀ s t : State, EngineOk s → WireOk s → step s = .next t → WireOk t) ∧
  (∀ s : State, WireOk s → s.idle = true → hwBits s.wtrace = queuedBits s.rtrace)

/-- CP stays inside the stream and a running command is the one the stream spells at CP (10_state R15, R16). -/
def Obligations.StreamInvariantKept : Prop := ∀ s t : State, StreamOk s → step s = .next t → StreamOk t

/-- INIT_DONE = 1 means unlocked, master mode and both pins outputs, from then on (42_init_select R120, 70_reset R156). -/
def Obligations.InitInvariantKept : Prop := ∀ s t : State, InitOk s → step s = .next t → InitOk t

/-- Commands other than `init` run only after INIT; drained positions are drained and a framing bit's middle has the
peripheral off; between a body's spin and its write TXH is empty (42_init_select R119, 43_queuing R123, 45_single_bit
R129). -/
def Obligations.CommandInvariantsKept : Prop :=
  ∀ s t : State, StartedOk s → DrainOk s → WriteOk s → step s = .next t → StartedOk t ∧ DrainOk t ∧ WriteOk t

/-- Without a guard chip select is always asserted (10_state R34). Between the select and the release of `wbv`, `wseq` and
`wpix` it is asserted, with or without a guard, and every wire event of a step that stays inside the bracket, the shift
engine's and the framing bit's, is recorded under it: no release falls inside (44_bracketed R128, 46_pixel_stream R133). -/
def Obligations.BracketHoldsChipSelect : Prop :=
  ∀ s t : State, CsOk s → BracketOk s → step s = .next t →
    CsOk t ∧ BracketOk t ∧
    ∀ c k l k' l', s.phase = .running c k l → t.phase = .running c k' l' →
      insideBracket c k = true → insideBracket c k' = true →
      ∃ e, t.wtrace = s.wtrace ++ e ∧ ∀ x ∈ e, wireCs x = .asserted

/-- The state after reset meets every invariant. Where an invariant speaks of a register whose reset value is a draw, it
holds for every draw. -/
def Obligations.ResetMeetsTheInvariants : Prop :=
  EngineOk State.reset ∧ WireOk State.reset ∧ StreamOk State.reset ∧ InitOk State.reset ∧ StartedOk State.reset ∧
  DrainOk State.reset ∧ WriteOk State.reset ∧ CsOk State.reset ∧ BracketOk State.reset ∧ Progressing State.reset ∧
  Memory.wf State.reset.mem = true

/-- In a state that meets the invariants, a running S-class command other than `init` raises no fault but
WRITE_WHILE_DISABLED, and that only before a write and with `CTRL.EN = 0`; a `wbit` raises none at all (43_queuing R123,
45_single_bit R129). -/
def Obligations.SClassRunsOnlyFaultWhenDisabled : Prop :=
  ∀ (s t : State) (c : Instr) (k : Nat) (l : Locals),
    InitOk s → StartedOk s → DrainOk s → WriteOk s → s.fault = none → s.phase = .running c k l →
    c.isSClass = true → c ≠ .init → step s = .next t →
    (t.fault = none ∨ (t.fault = some .writeWhileDisabled ∧ s.en = false ∧ writeAt c k = true)) ∧
    ((∃ b x, c = .wbit b x) → t.fault = none)

/-- At the release of `wseq` and `wpix`, STATUS.IDLE = 1, and SEQ's step there records the Release with every queued bit
already on the wire (44_bracketed R128, 46_pixel_stream R133, 20_memory R54). -/
def Obligations.BracketReleasesAfterFullDrain : Prop :=
  ∀ (s t : State) (c : Instr) (k : Nat) (l : Locals), DrainOk s → WireOk s → s.fault = none →
    s.phase = .running c k l → ((∃ u a n, c = .wseq u a n) ∧ k = 9) ∨ ((∃ a, c = .wpix a) ∧ k = 21) →
    step s = .next t →
    s.idle = true ∧ t.rtrace = s.rtrace ++ [.release] ∧ hwBits s.wtrace = queuedBits s.rtrace ∧ t.txh = none ∧ t.sr = none

/-- The register trace of every command, its polls left out, is its rule's: each step of the block moves one running command
along its script, whatever SHE does in between, a command retires only with its whole script recorded, and a fault adds its
Fault event and nothing else; the decode step starts the script (40_execution R81, R82 and the 22 commands' rules). -/
def Obligations.EveryCommandFollowsItsScript : Prop :=
  ∀ s t : State, Progressing s → WriteOk s → step s = .next t →
    Progressing t ∧
    (∀ c k l, s.phase = .running c k l →
      (∃ k' l', t.phase = .running c k' l' ∧
        noPolls t.rtrace ++ rest c t.mem t.w16 k' l' = noPolls s.rtrace ++ rest c s.mem s.w16 k l) ∨
      (t.phase = .idle ∧ rest c s.mem s.w16 k l = [] ∧ noPolls t.rtrace = noPolls s.rtrace) ∨
      (∃ e, t.fault = some e ∧ noPolls t.rtrace = noPolls s.rtrace ++ [.fault e])) ∧
    (s.phase = .idle → ∀ c k l, t.phase = .running c k l →
      noPolls t.rtrace = noPolls s.rtrace ∧ rest c t.mem t.w16 k l = script c s.mem s.w16)

/-- Between its select and its hook a running `wpix` queues exactly three adjusted channel bytes for each of `LEN / (3 + SKIP)`
pixels and starts one framing bit a pixel if SBF = 1, none otherwise (46_pixel_stream R131). At its start that many are left;
each step of the block takes what it queues and starts from what is left, a Queue event before the hook is one of the pixel's
three adjusted bytes, and the hook is called with nothing left, with LEN, and not again. Its script, too, has these counts,
one Select, one PostBlock(LEN) and one Release. -/
def Obligations.PixelStreamQueuesThreeBytesAPixel : Prop :=
  (∀ (a : PixArgs) (l : Locals),
    channelLeft a 0 l = 3 * (a.len.toNat / (3 + a.skip.toNat)) ∧
    framesLeft a 0 l = if a.sbf then a.len.toNat / (3 + a.skip.toNat) else 0) ∧
  (∀ (s t : State) (a : PixArgs) (k k' : Nat) (l l' : Locals), Progressing s →
    s.phase = .running (.wpix a) k l → step s = .next t → t.phase = .running (.wpix a) k' l' →
    ∃ e, t.rtrace = s.rtrace ++ e ∧
      (k ≤ 16 →
        (queuedValues e).length + channelLeft a k' l' = channelLeft a k l ∧
        (e.filter (fun x => x == .disable)).length + framesLeft a k' l' = framesLeft a k l ∧
        (∀ v ∈ queuedValues e, v ∈ (pixBytes a l.sigma).map (·.setWidth 16)) ∧
        (17 ≤ k' → k' = 17 ∧ e = [.postBlock a.len.toNat] ∧ channelLeft a k l = 0 ∧ framesLeft a k l = 0) ∧
        (.select ∈ e → k = 0) ∧ .release ∉ e) ∧
      (17 ≤ k → 17 ≤ k' ∧ (∀ n, .postBlock n ∉ e) ∧ .disable ∉ e ∧ .select ∉ e ∧ (.release ∈ e → k = 21))) ∧
  (∀ (a : PixArgs) (mem : List Host.Cell) (w16 : Bool) (w : List Byte), window mem a.addr a.len = some w →
      (queuedValues (script (.wpix a) mem w16)).length =
        3 * (a.len.toNat / (3 + a.skip.toNat)) + (Config.postBlock a.tsel a.len.toNat).length ∧
      ((script (.wpix a) mem w16).filter (fun e => e == .disable)).length =
        (if a.sbf then a.len.toNat / (3 + a.skip.toNat) else 0) ∧
      (script (.wpix a) mem w16).filter (fun e => match e with | .postBlock _ => true | _ => false) =
        [.postBlock a.len.toNat] ∧
      ((script (.wpix a) mem w16).filter (fun e => e == .select)).length = 1 ∧
      ((script (.wpix a) mem w16).filter (fun e => e == .release)).length = 1)

/-- No step changes the launch memory or the stream: every address reads as before, and the memory's canonical form is kept
(20_memory R39, R40, 30_encoding R60). -/
def Obligations.LaunchMemoryAndStreamNeverChange : Prop :=
  ∀ s t : State, step s = .next t →
    t.stream = s.stream ∧ (∀ a, Memory.read t.mem a = Memory.read s.mem a) ∧
    (Memory.wf s.mem = true → Memory.wf t.mem = true)

/-- What no step undoes: INIT_DONE, FAULT, the lock, master mode and the pin directions are set for good; both traces only
grow, by at most one event a step; CP never falls (10_state R17, R18, R21, R24, R31, R35, R36, 30_encoding R73). -/
def Obligations.NothingIsUndone : Prop :=
  ∀ s t : State, step s = .next t →
    (s.initDone = true → t.initDone = true) ∧ (s.fault ≠ none → t.fault = s.fault) ∧
    (s.unlocked = true → t.unlocked = true) ∧ (s.mstr = true → t.mstr = true) ∧
    (s.dirData = true → t.dirData = true) ∧ (s.dirClk = true → t.dirClk = true) ∧
    (∃ e, t.rtrace = s.rtrace ++ e ∧ e.length ≤ 1) ∧ (∃ e, t.wtrace = s.wtrace ++ e ∧ e.length ≤ 1) ∧ s.cp ≤ t.cp

/-! ### Reset and the end of a run -/

/-- R38: the values the spec fixes at reset, and the two it derives from them (R154); the draws are not mentioned, they are
free. And, in every state, the layouts of the register views: CTRL's five fields (R19), STATUS's two bits (R25), and FAULT's
code (R18), which is 0 for no fault and each of the thirteen numbers of 60_exceptions R135 for its name. -/
def Obligations.ResetValuesAndRegisterViews : Prop :=
  State.reset.cp = 0 ∧ State.reset.phase = .idle ∧ State.reset.initDone = false ∧ State.reset.faultReg = 0#4 ∧
  State.reset.en = false ∧ State.reset.mstr = false ∧ State.reset.unlocked = false ∧
  State.reset.txh = none ∧ State.reset.sr = none ∧ State.reset.status = 3#2 ∧
  State.reset.dirData = false ∧ State.reset.dirClk = false ∧
  State.reset.wireClk = .hiZ ∧ State.reset.wireData = .hiZ ∧
  (Config.guardPresent = true ∨ State.reset.cs = .asserted) ∧
  State.reset.rtrace = [] ∧ State.reset.wtrace = [] ∧
  (∀ s : State,
    s.ctrl.getLsbD 0 = s.en ∧ s.ctrl.getLsbD 1 = s.mstr ∧ s.ctrl.getLsbD 2 = s.w16 ∧
    s.ctrl.extractLsb' 3 5 = 0#5 ∧ s.ctrl.extractLsb' 8 8 = s.div ∧
    (s.status.getLsbD 0 = true ↔ s.txh = none) ∧ (s.status.getLsbD 1 = true ↔ s.txh = none ∧ s.sr = none) ∧
    (s.faultReg = 0#4 ↔ s.fault = none) ∧ (∀ c, s.fault = some c → s.faultReg = codeNumber c)) ∧
  codeNumber .illegalCommand = 1#4 ∧ codeNumber .truncatedCommand = 2#4 ∧ codeNumber .notInitialised = 3#4 ∧
  codeNumber .reinit = 4#4 ∧ codeNumber .cfgLocked = 5#4 ∧ codeNumber .cfgWhilePending = 6#4 ∧
  codeNumber .disableWhileBusy = 7#4 ∧ codeNumber .writeWhileDisabled = 8#4 ∧ codeNumber .overrun = 9#4 ∧
  codeNumber .pinConflict = 10#4 ∧ codeNumber .illegalOperand = 11#4 ∧ codeNumber .addressRange = 12#4 ∧
  codeNumber .partialPixel = 13#4

/-- Neither agent has a step in a final state (40_execution R105; the names of the ends are the model's, log 13), and a run stops
nowhere else than in a final state, in a faulted state that is drained, or at a `wseq` or `wpix` with a byte of its window that
the launch memory does not admit (20_memory R40), drained as well: no other stuck state exists among the states that meet the
invariants. -/
def Obligations.RunsStopOnlyWhereTheSpecSays : Prop :=
  (∀ s : State, Final s → step s = .fault .runFinal) ∧
  (∀ s : State, StreamOk s → EngineOk s → Progressing s →
    (step s = .fault .runFinal ∧ Final s) ∨
    (step s = .fault .runFaulted ∧ Faulted s ∧ s.idle = true) ∨
    (step s = .fault .memReadBlocked ∧ s.idle = true ∧
      ∃ c k l j, s.phase = .running c k l ∧
        ((∃ u a n, c = .wseq u a n ∧ j < n.toNat ∧ Memory.read s.mem (a.toNat + j) = none) ∨
          ∃ a, c = .wpix a ∧ j < a.len.toNat ∧ Memory.read s.mem (a.addr.toNat + j) = none)) ∨
    ∃ t, step s = .next t)
end

