-- ==== Sys2Proof/Laws/Bits.lean ====
section
/-! SUPPORT. Reading a field out of a concatenation. Rewrite with these (`rw`), the widths being literals. -/

namespace Sys2Proof

/-- A field at or above the low part lies in the high part. -/
theorem extract_up {w v : Nat} (x : BitVec w) (y : BitVec v) (a n : Nat) (h : v ≤ a) :
    (x ++ y).extractLsb' a n = x.extractLsb' (a - v) n := by
  ext i hi
  simp only [BitVec.getElem_extractLsb', BitVec.getLsbD_append]
  rw [if_neg (by omega)]
  congr 1
  omega

/-- A field inside the low part. -/
theorem extract_low {w v : Nat} (x : BitVec w) (y : BitVec v) (a n : Nat) (h : a + n ≤ v) :
    (x ++ y).extractLsb' a n = y.extractLsb' a n := by
  ext i hi
  simp only [BitVec.getElem_extractLsb', BitVec.getLsbD_append]
  rw [if_pos (by omega)]

/-- The whole value as a field. -/
theorem extract_all {w : Nat} (x : BitVec w) : x.extractLsb' 0 w = x := by
  ext i hi
  simp

/-- A bit at or above the low part. -/
theorem getLsbD_up {w v : Nat} (x : BitVec w) (y : BitVec v) (a : Nat) (h : v ≤ a) :
    (x ++ y).getLsbD a = x.getLsbD (a - v) := by
  rw [BitVec.getLsbD_append, if_neg (by omega)]

/-- A bit of the low part. -/
theorem getLsbD_low {w v : Nat} (x : BitVec w) (y : BitVec v) (a : Nat) (h : a < v) :
    (x ++ y).getLsbD a = y.getLsbD a := by
  rw [BitVec.getLsbD_append, if_pos h]

end Sys2Proof
end

