-- ==== Sys2Proof/Laws/State.lean ====
section
/-! SUPPORT. One lemma for each field of State under each named update: what the update writes, and that it writes nothing
else. -/

namespace Sys2Proof.Machine

/-! ### emitR -/

@[simp] theorem State.emitR_stream (s : State) (e : REvent) : (s.emitR e).stream = s.stream := rfl
@[simp] theorem State.emitR_mem (s : State) (e : REvent) : (s.emitR e).mem = s.mem := rfl
@[simp] theorem State.emitR_cp (s : State) (e : REvent) : (s.emitR e).cp = s.cp := rfl
@[simp] theorem State.emitR_phase (s : State) (e : REvent) : (s.emitR e).phase = s.phase := rfl
@[simp] theorem State.emitR_initDone (s : State) (e : REvent) : (s.emitR e).initDone = s.initDone := rfl
@[simp] theorem State.emitR_fault (s : State) (e : REvent) : (s.emitR e).fault = s.fault := rfl
@[simp] theorem State.emitR_faultCp (s : State) (e : REvent) : (s.emitR e).faultCp = s.faultCp := rfl
@[simp] theorem State.emitR_faultWord (s : State) (e : REvent) : (s.emitR e).faultWord = s.faultWord := rfl
@[simp] theorem State.emitR_en (s : State) (e : REvent) : (s.emitR e).en = s.en := rfl
@[simp] theorem State.emitR_mstr (s : State) (e : REvent) : (s.emitR e).mstr = s.mstr := rfl
@[simp] theorem State.emitR_w16 (s : State) (e : REvent) : (s.emitR e).w16 = s.w16 := rfl
@[simp] theorem State.emitR_div (s : State) (e : REvent) : (s.emitR e).div = s.div := rfl
@[simp] theorem State.emitR_unlocked (s : State) (e : REvent) : (s.emitR e).unlocked = s.unlocked := rfl
@[simp] theorem State.emitR_txh (s : State) (e : REvent) : (s.emitR e).txh = s.txh := rfl
@[simp] theorem State.emitR_sr (s : State) (e : REvent) : (s.emitR e).sr = s.sr := rfl
@[simp] theorem State.emitR_pdata (s : State) (e : REvent) : (s.emitR e).pdata = s.pdata := rfl
@[simp] theorem State.emitR_dirData (s : State) (e : REvent) : (s.emitR e).dirData = s.dirData := rfl
@[simp] theorem State.emitR_dirClk (s : State) (e : REvent) : (s.emitR e).dirClk = s.dirClk := rfl
@[simp] theorem State.emitR_latData (s : State) (e : REvent) : (s.emitR e).latData = s.latData := rfl
@[simp] theorem State.emitR_latClk (s : State) (e : REvent) : (s.emitR e).latClk = s.latClk := rfl
@[simp] theorem State.emitR_cs (s : State) (e : REvent) : (s.emitR e).cs = s.cs := rfl
@[simp] theorem State.emitR_rtrace (s : State) (e : REvent) : (s.emitR e).rtrace = s.rtrace ++ [e] := rfl
@[simp] theorem State.emitR_wtrace (s : State) (e : REvent) : (s.emitR e).wtrace = s.wtrace := rfl
@[simp] theorem State.emitR_turn (s : State) (e : REvent) : (s.emitR e).turn = s.turn := rfl
@[simp] theorem State.emitR_schedIx (s : State) (e : REvent) : (s.emitR e).schedIx = s.schedIx := rfl
@[simp] theorem State.emitR_drawIx (s : State) (e : REvent) : (s.emitR e).drawIx = s.drawIx := rfl

/-! ### emitW -/

@[simp] theorem State.emitW_stream (s : State) (e : WEvent) : (s.emitW e).stream = s.stream := rfl
@[simp] theorem State.emitW_mem (s : State) (e : WEvent) : (s.emitW e).mem = s.mem := rfl
@[simp] theorem State.emitW_cp (s : State) (e : WEvent) : (s.emitW e).cp = s.cp := rfl
@[simp] theorem State.emitW_phase (s : State) (e : WEvent) : (s.emitW e).phase = s.phase := rfl
@[simp] theorem State.emitW_initDone (s : State) (e : WEvent) : (s.emitW e).initDone = s.initDone := rfl
@[simp] theorem State.emitW_fault (s : State) (e : WEvent) : (s.emitW e).fault = s.fault := rfl
@[simp] theorem State.emitW_faultCp (s : State) (e : WEvent) : (s.emitW e).faultCp = s.faultCp := rfl
@[simp] theorem State.emitW_faultWord (s : State) (e : WEvent) : (s.emitW e).faultWord = s.faultWord := rfl
@[simp] theorem State.emitW_en (s : State) (e : WEvent) : (s.emitW e).en = s.en := rfl
@[simp] theorem State.emitW_mstr (s : State) (e : WEvent) : (s.emitW e).mstr = s.mstr := rfl
@[simp] theorem State.emitW_w16 (s : State) (e : WEvent) : (s.emitW e).w16 = s.w16 := rfl
@[simp] theorem State.emitW_div (s : State) (e : WEvent) : (s.emitW e).div = s.div := rfl
@[simp] theorem State.emitW_unlocked (s : State) (e : WEvent) : (s.emitW e).unlocked = s.unlocked := rfl
@[simp] theorem State.emitW_txh (s : State) (e : WEvent) : (s.emitW e).txh = s.txh := rfl
@[simp] theorem State.emitW_sr (s : State) (e : WEvent) : (s.emitW e).sr = s.sr := rfl
@[simp] theorem State.emitW_pdata (s : State) (e : WEvent) : (s.emitW e).pdata = s.pdata := rfl
@[simp] theorem State.emitW_dirData (s : State) (e : WEvent) : (s.emitW e).dirData = s.dirData := rfl
@[simp] theorem State.emitW_dirClk (s : State) (e : WEvent) : (s.emitW e).dirClk = s.dirClk := rfl
@[simp] theorem State.emitW_latData (s : State) (e : WEvent) : (s.emitW e).latData = s.latData := rfl
@[simp] theorem State.emitW_latClk (s : State) (e : WEvent) : (s.emitW e).latClk = s.latClk := rfl
@[simp] theorem State.emitW_cs (s : State) (e : WEvent) : (s.emitW e).cs = s.cs := rfl
@[simp] theorem State.emitW_rtrace (s : State) (e : WEvent) : (s.emitW e).rtrace = s.rtrace := rfl
@[simp] theorem State.emitW_wtrace (s : State) (e : WEvent) : (s.emitW e).wtrace = s.wtrace ++ [e] := rfl
@[simp] theorem State.emitW_turn (s : State) (e : WEvent) : (s.emitW e).turn = s.turn := rfl
@[simp] theorem State.emitW_schedIx (s : State) (e : WEvent) : (s.emitW e).schedIx = s.schedIx := rfl
@[simp] theorem State.emitW_drawIx (s : State) (e : WEvent) : (s.emitW e).drawIx = s.drawIx := rfl

/-! ### wireUpdate -/

@[simp] theorem State.wireUpdate_stream (s : State) (o : Origin) (c0 : Level) :
    (s.wireUpdate o c0).stream = s.stream := rfl
@[simp] theorem State.wireUpdate_mem (s : State) (o : Origin) (c0 : Level) : (s.wireUpdate o c0).mem = s.mem := rfl
@[simp] theorem State.wireUpdate_cp (s : State) (o : Origin) (c0 : Level) : (s.wireUpdate o c0).cp = s.cp := rfl
@[simp] theorem State.wireUpdate_phase (s : State) (o : Origin) (c0 : Level) :
    (s.wireUpdate o c0).phase = s.phase := rfl
@[simp] theorem State.wireUpdate_initDone (s : State) (o : Origin) (c0 : Level) :
    (s.wireUpdate o c0).initDone = s.initDone := rfl
@[simp] theorem State.wireUpdate_fault (s : State) (o : Origin) (c0 : Level) :
    (s.wireUpdate o c0).fault = s.fault := rfl
@[simp] theorem State.wireUpdate_faultCp (s : State) (o : Origin) (c0 : Level) :
    (s.wireUpdate o c0).faultCp = s.faultCp := rfl
@[simp] theorem State.wireUpdate_faultWord (s : State) (o : Origin) (c0 : Level) :
    (s.wireUpdate o c0).faultWord = s.faultWord := rfl
@[simp] theorem State.wireUpdate_en (s : State) (o : Origin) (c0 : Level) : (s.wireUpdate o c0).en = s.en := rfl
@[simp] theorem State.wireUpdate_mstr (s : State) (o : Origin) (c0 : Level) : (s.wireUpdate o c0).mstr = s.mstr := rfl
@[simp] theorem State.wireUpdate_w16 (s : State) (o : Origin) (c0 : Level) : (s.wireUpdate o c0).w16 = s.w16 := rfl
@[simp] theorem State.wireUpdate_div (s : State) (o : Origin) (c0 : Level) : (s.wireUpdate o c0).div = s.div := rfl
@[simp] theorem State.wireUpdate_unlocked (s : State) (o : Origin) (c0 : Level) :
    (s.wireUpdate o c0).unlocked = s.unlocked := rfl
@[simp] theorem State.wireUpdate_txh (s : State) (o : Origin) (c0 : Level) : (s.wireUpdate o c0).txh = s.txh := rfl
@[simp] theorem State.wireUpdate_sr (s : State) (o : Origin) (c0 : Level) : (s.wireUpdate o c0).sr = s.sr := rfl
@[simp] theorem State.wireUpdate_pdata (s : State) (o : Origin) (c0 : Level) :
    (s.wireUpdate o c0).pdata = s.pdata := rfl
@[simp] theorem State.wireUpdate_dirData (s : State) (o : Origin) (c0 : Level) :
    (s.wireUpdate o c0).dirData = s.dirData := rfl
@[simp] theorem State.wireUpdate_dirClk (s : State) (o : Origin) (c0 : Level) :
    (s.wireUpdate o c0).dirClk = s.dirClk := rfl
@[simp] theorem State.wireUpdate_latData (s : State) (o : Origin) (c0 : Level) :
    (s.wireUpdate o c0).latData = s.latData := rfl
@[simp] theorem State.wireUpdate_latClk (s : State) (o : Origin) (c0 : Level) :
    (s.wireUpdate o c0).latClk = s.latClk := rfl
@[simp] theorem State.wireUpdate_cs (s : State) (o : Origin) (c0 : Level) : (s.wireUpdate o c0).cs = s.cs := rfl
@[simp] theorem State.wireUpdate_rtrace (s : State) (o : Origin) (c0 : Level) :
    (s.wireUpdate o c0).rtrace = s.rtrace := rfl
@[simp] theorem State.wireUpdate_wtrace (s : State) (o : Origin) (c0 : Level) :
    (s.wireUpdate o c0).wtrace = s.wtrace ++ wireEvents o c0 s := rfl
@[simp] theorem State.wireUpdate_turn (s : State) (o : Origin) (c0 : Level) : (s.wireUpdate o c0).turn = s.turn := rfl
@[simp] theorem State.wireUpdate_schedIx (s : State) (o : Origin) (c0 : Level) :
    (s.wireUpdate o c0).schedIx = s.schedIx := rfl
@[simp] theorem State.wireUpdate_drawIx (s : State) (o : Origin) (c0 : Level) :
    (s.wireUpdate o c0).drawIx = s.drawIx + wireDraws o c0 s := rfl

/-! ### raiseFault -/

@[simp] theorem State.raiseFault_stream (s : State) (c : FaultCode) : (s.raiseFault c).stream = s.stream := rfl
@[simp] theorem State.raiseFault_mem (s : State) (c : FaultCode) : (s.raiseFault c).mem = s.mem := rfl
@[simp] theorem State.raiseFault_cp (s : State) (c : FaultCode) : (s.raiseFault c).cp = s.cp := rfl
@[simp] theorem State.raiseFault_phase (s : State) (c : FaultCode) : (s.raiseFault c).phase = s.phase := rfl
@[simp] theorem State.raiseFault_initDone (s : State) (c : FaultCode) : (s.raiseFault c).initDone = s.initDone := rfl
@[simp] theorem State.raiseFault_fault (s : State) (c : FaultCode) : (s.raiseFault c).fault = some c := rfl
@[simp] theorem State.raiseFault_faultCp (s : State) (c : FaultCode) : (s.raiseFault c).faultCp = s.cp := rfl
@[simp] theorem State.raiseFault_faultWord (s : State) (c : FaultCode) :
    (s.raiseFault c).faultWord = s.stream.getD s.cp 0#32 := rfl
@[simp] theorem State.raiseFault_en (s : State) (c : FaultCode) : (s.raiseFault c).en = s.en := rfl
@[simp] theorem State.raiseFault_mstr (s : State) (c : FaultCode) : (s.raiseFault c).mstr = s.mstr := rfl
@[simp] theorem State.raiseFault_w16 (s : State) (c : FaultCode) : (s.raiseFault c).w16 = s.w16 := rfl
@[simp] theorem State.raiseFault_div (s : State) (c : FaultCode) : (s.raiseFault c).div = s.div := rfl
@[simp] theorem State.raiseFault_unlocked (s : State) (c : FaultCode) : (s.raiseFault c).unlocked = s.unlocked := rfl
@[simp] theorem State.raiseFault_txh (s : State) (c : FaultCode) : (s.raiseFault c).txh = s.txh := rfl
@[simp] theorem State.raiseFault_sr (s : State) (c : FaultCode) : (s.raiseFault c).sr = s.sr := rfl
@[simp] theorem State.raiseFault_pdata (s : State) (c : FaultCode) : (s.raiseFault c).pdata = s.pdata := rfl
@[simp] theorem State.raiseFault_dirData (s : State) (c : FaultCode) : (s.raiseFault c).dirData = s.dirData := rfl
@[simp] theorem State.raiseFault_dirClk (s : State) (c : FaultCode) : (s.raiseFault c).dirClk = s.dirClk := rfl
@[simp] theorem State.raiseFault_latData (s : State) (c : FaultCode) : (s.raiseFault c).latData = s.latData := rfl
@[simp] theorem State.raiseFault_latClk (s : State) (c : FaultCode) : (s.raiseFault c).latClk = s.latClk := rfl
@[simp] theorem State.raiseFault_cs (s : State) (c : FaultCode) : (s.raiseFault c).cs = s.cs := rfl
@[simp] theorem State.raiseFault_rtrace (s : State) (c : FaultCode) :
    (s.raiseFault c).rtrace = s.rtrace ++ [.fault c] := rfl
@[simp] theorem State.raiseFault_wtrace (s : State) (c : FaultCode) : (s.raiseFault c).wtrace = s.wtrace := rfl
@[simp] theorem State.raiseFault_turn (s : State) (c : FaultCode) : (s.raiseFault c).turn = s.turn := rfl
@[simp] theorem State.raiseFault_schedIx (s : State) (c : FaultCode) : (s.raiseFault c).schedIx = s.schedIx := rfl
@[simp] theorem State.raiseFault_drawIx (s : State) (c : FaultCode) : (s.raiseFault c).drawIx = s.drawIx := rfl

/-! ### start -/

@[simp] theorem State.start_stream (s : State) (i : Instr) (l : Locals) : (s.start i l).stream = s.stream := rfl
@[simp] theorem State.start_mem (s : State) (i : Instr) (l : Locals) : (s.start i l).mem = s.mem := rfl
@[simp] theorem State.start_cp (s : State) (i : Instr) (l : Locals) : (s.start i l).cp = s.cp := rfl
@[simp] theorem State.start_phase (s : State) (i : Instr) (l : Locals) : (s.start i l).phase = .running i 0 l := rfl
@[simp] theorem State.start_initDone (s : State) (i : Instr) (l : Locals) : (s.start i l).initDone = s.initDone := rfl
@[simp] theorem State.start_fault (s : State) (i : Instr) (l : Locals) : (s.start i l).fault = s.fault := rfl
@[simp] theorem State.start_faultCp (s : State) (i : Instr) (l : Locals) : (s.start i l).faultCp = s.faultCp := rfl
@[simp] theorem State.start_faultWord (s : State) (i : Instr) (l : Locals) :
    (s.start i l).faultWord = s.faultWord := rfl
@[simp] theorem State.start_en (s : State) (i : Instr) (l : Locals) : (s.start i l).en = s.en := rfl
@[simp] theorem State.start_mstr (s : State) (i : Instr) (l : Locals) : (s.start i l).mstr = s.mstr := rfl
@[simp] theorem State.start_w16 (s : State) (i : Instr) (l : Locals) : (s.start i l).w16 = s.w16 := rfl
@[simp] theorem State.start_div (s : State) (i : Instr) (l : Locals) : (s.start i l).div = s.div := rfl
@[simp] theorem State.start_unlocked (s : State) (i : Instr) (l : Locals) : (s.start i l).unlocked = s.unlocked := rfl
@[simp] theorem State.start_txh (s : State) (i : Instr) (l : Locals) : (s.start i l).txh = s.txh := rfl
@[simp] theorem State.start_sr (s : State) (i : Instr) (l : Locals) : (s.start i l).sr = s.sr := rfl
@[simp] theorem State.start_pdata (s : State) (i : Instr) (l : Locals) : (s.start i l).pdata = s.pdata := rfl
@[simp] theorem State.start_dirData (s : State) (i : Instr) (l : Locals) : (s.start i l).dirData = s.dirData := rfl
@[simp] theorem State.start_dirClk (s : State) (i : Instr) (l : Locals) : (s.start i l).dirClk = s.dirClk := rfl
@[simp] theorem State.start_latData (s : State) (i : Instr) (l : Locals) : (s.start i l).latData = s.latData := rfl
@[simp] theorem State.start_latClk (s : State) (i : Instr) (l : Locals) : (s.start i l).latClk = s.latClk := rfl
@[simp] theorem State.start_cs (s : State) (i : Instr) (l : Locals) : (s.start i l).cs = s.cs := rfl
@[simp] theorem State.start_rtrace (s : State) (i : Instr) (l : Locals) : (s.start i l).rtrace = s.rtrace := rfl
@[simp] theorem State.start_wtrace (s : State) (i : Instr) (l : Locals) : (s.start i l).wtrace = s.wtrace := rfl
@[simp] theorem State.start_turn (s : State) (i : Instr) (l : Locals) : (s.start i l).turn = s.turn := rfl
@[simp] theorem State.start_schedIx (s : State) (i : Instr) (l : Locals) : (s.start i l).schedIx = s.schedIx := rfl
@[simp] theorem State.start_drawIx (s : State) (i : Instr) (l : Locals) : (s.start i l).drawIx = s.drawIx := rfl

/-! ### goto -/

@[simp] theorem State.goto_stream (s : State) (i : Instr) (k : Nat) (l : Locals) :
    (s.goto i k l).stream = s.stream := rfl
@[simp] theorem State.goto_mem (s : State) (i : Instr) (k : Nat) (l : Locals) : (s.goto i k l).mem = s.mem := rfl
@[simp] theorem State.goto_cp (s : State) (i : Instr) (k : Nat) (l : Locals) : (s.goto i k l).cp = s.cp := rfl
@[simp] theorem State.goto_phase (s : State) (i : Instr) (k : Nat) (l : Locals) :
    (s.goto i k l).phase = .running i k l := rfl
@[simp] theorem State.goto_initDone (s : State) (i : Instr) (k : Nat) (l : Locals) :
    (s.goto i k l).initDone = s.initDone := rfl
@[simp] theorem State.goto_fault (s : State) (i : Instr) (k : Nat) (l : Locals) :
    (s.goto i k l).fault = s.fault := rfl
@[simp] theorem State.goto_faultCp (s : State) (i : Instr) (k : Nat) (l : Locals) :
    (s.goto i k l).faultCp = s.faultCp := rfl
@[simp] theorem State.goto_faultWord (s : State) (i : Instr) (k : Nat) (l : Locals) :
    (s.goto i k l).faultWord = s.faultWord := rfl
@[simp] theorem State.goto_en (s : State) (i : Instr) (k : Nat) (l : Locals) : (s.goto i k l).en = s.en := rfl
@[simp] theorem State.goto_mstr (s : State) (i : Instr) (k : Nat) (l : Locals) : (s.goto i k l).mstr = s.mstr := rfl
@[simp] theorem State.goto_w16 (s : State) (i : Instr) (k : Nat) (l : Locals) : (s.goto i k l).w16 = s.w16 := rfl
@[simp] theorem State.goto_div (s : State) (i : Instr) (k : Nat) (l : Locals) : (s.goto i k l).div = s.div := rfl
@[simp] theorem State.goto_unlocked (s : State) (i : Instr) (k : Nat) (l : Locals) :
    (s.goto i k l).unlocked = s.unlocked := rfl
@[simp] theorem State.goto_txh (s : State) (i : Instr) (k : Nat) (l : Locals) : (s.goto i k l).txh = s.txh := rfl
@[simp] theorem State.goto_sr (s : State) (i : Instr) (k : Nat) (l : Locals) : (s.goto i k l).sr = s.sr := rfl
@[simp] theorem State.goto_pdata (s : State) (i : Instr) (k : Nat) (l : Locals) :
    (s.goto i k l).pdata = s.pdata := rfl
@[simp] theorem State.goto_dirData (s : State) (i : Instr) (k : Nat) (l : Locals) :
    (s.goto i k l).dirData = s.dirData := rfl
@[simp] theorem State.goto_dirClk (s : State) (i : Instr) (k : Nat) (l : Locals) :
    (s.goto i k l).dirClk = s.dirClk := rfl
@[simp] theorem State.goto_latData (s : State) (i : Instr) (k : Nat) (l : Locals) :
    (s.goto i k l).latData = s.latData := rfl
@[simp] theorem State.goto_latClk (s : State) (i : Instr) (k : Nat) (l : Locals) :
    (s.goto i k l).latClk = s.latClk := rfl
@[simp] theorem State.goto_cs (s : State) (i : Instr) (k : Nat) (l : Locals) : (s.goto i k l).cs = s.cs := rfl
@[simp] theorem State.goto_rtrace (s : State) (i : Instr) (k : Nat) (l : Locals) :
    (s.goto i k l).rtrace = s.rtrace := rfl
@[simp] theorem State.goto_wtrace (s : State) (i : Instr) (k : Nat) (l : Locals) :
    (s.goto i k l).wtrace = s.wtrace := rfl
@[simp] theorem State.goto_turn (s : State) (i : Instr) (k : Nat) (l : Locals) : (s.goto i k l).turn = s.turn := rfl
@[simp] theorem State.goto_schedIx (s : State) (i : Instr) (k : Nat) (l : Locals) :
    (s.goto i k l).schedIx = s.schedIx := rfl
@[simp] theorem State.goto_drawIx (s : State) (i : Instr) (k : Nat) (l : Locals) :
    (s.goto i k l).drawIx = s.drawIx := rfl

/-! ### retire -/

@[simp] theorem State.retire_stream (s : State) (i : Instr) : (s.retire i).stream = s.stream := rfl
@[simp] theorem State.retire_mem (s : State) (i : Instr) : (s.retire i).mem = s.mem := rfl
@[simp] theorem State.retire_cp (s : State) (i : Instr) : (s.retire i).cp = s.cp + 1 + i.nExt := rfl
@[simp] theorem State.retire_phase (s : State) (i : Instr) : (s.retire i).phase = .idle := rfl
@[simp] theorem State.retire_initDone (s : State) (i : Instr) : (s.retire i).initDone = s.initDone := rfl
@[simp] theorem State.retire_fault (s : State) (i : Instr) : (s.retire i).fault = s.fault := rfl
@[simp] theorem State.retire_faultCp (s : State) (i : Instr) : (s.retire i).faultCp = s.faultCp := rfl
@[simp] theorem State.retire_faultWord (s : State) (i : Instr) : (s.retire i).faultWord = s.faultWord := rfl
@[simp] theorem State.retire_en (s : State) (i : Instr) : (s.retire i).en = s.en := rfl
@[simp] theorem State.retire_mstr (s : State) (i : Instr) : (s.retire i).mstr = s.mstr := rfl
@[simp] theorem State.retire_w16 (s : State) (i : Instr) : (s.retire i).w16 = s.w16 := rfl
@[simp] theorem State.retire_div (s : State) (i : Instr) : (s.retire i).div = s.div := rfl
@[simp] theorem State.retire_unlocked (s : State) (i : Instr) : (s.retire i).unlocked = s.unlocked := rfl
@[simp] theorem State.retire_txh (s : State) (i : Instr) : (s.retire i).txh = s.txh := rfl
@[simp] theorem State.retire_sr (s : State) (i : Instr) : (s.retire i).sr = s.sr := rfl
@[simp] theorem State.retire_pdata (s : State) (i : Instr) : (s.retire i).pdata = s.pdata := rfl
@[simp] theorem State.retire_dirData (s : State) (i : Instr) : (s.retire i).dirData = s.dirData := rfl
@[simp] theorem State.retire_dirClk (s : State) (i : Instr) : (s.retire i).dirClk = s.dirClk := rfl
@[simp] theorem State.retire_latData (s : State) (i : Instr) : (s.retire i).latData = s.latData := rfl
@[simp] theorem State.retire_latClk (s : State) (i : Instr) : (s.retire i).latClk = s.latClk := rfl
@[simp] theorem State.retire_cs (s : State) (i : Instr) : (s.retire i).cs = s.cs := rfl
@[simp] theorem State.retire_rtrace (s : State) (i : Instr) : (s.retire i).rtrace = s.rtrace := rfl
@[simp] theorem State.retire_wtrace (s : State) (i : Instr) : (s.retire i).wtrace = s.wtrace := rfl
@[simp] theorem State.retire_turn (s : State) (i : Instr) : (s.retire i).turn = s.turn := rfl
@[simp] theorem State.retire_schedIx (s : State) (i : Instr) : (s.retire i).schedIx = s.schedIx := rfl
@[simp] theorem State.retire_drawIx (s : State) (i : Instr) : (s.retire i).drawIx = s.drawIx := rfl

/-! ### initRetire -/

@[simp] theorem initRetire_stream (s : State) : (initRetire s).stream = s.stream := rfl
@[simp] theorem initRetire_mem (s : State) : (initRetire s).mem = s.mem := rfl
@[simp] theorem initRetire_cp (s : State) : (initRetire s).cp = s.cp + 1 := rfl
@[simp] theorem initRetire_phase (s : State) : (initRetire s).phase = .idle := rfl
@[simp] theorem initRetire_initDone (s : State) : (initRetire s).initDone = true := rfl
@[simp] theorem initRetire_fault (s : State) : (initRetire s).fault = s.fault := rfl
@[simp] theorem initRetire_faultCp (s : State) : (initRetire s).faultCp = s.faultCp := rfl
@[simp] theorem initRetire_faultWord (s : State) : (initRetire s).faultWord = s.faultWord := rfl
@[simp] theorem initRetire_en (s : State) : (initRetire s).en = s.en := rfl
@[simp] theorem initRetire_mstr (s : State) : (initRetire s).mstr = s.mstr := rfl
@[simp] theorem initRetire_w16 (s : State) : (initRetire s).w16 = s.w16 := rfl
@[simp] theorem initRetire_div (s : State) : (initRetire s).div = s.div := rfl
@[simp] theorem initRetire_unlocked (s : State) : (initRetire s).unlocked = s.unlocked := rfl
@[simp] theorem initRetire_txh (s : State) : (initRetire s).txh = s.txh := rfl
@[simp] theorem initRetire_sr (s : State) : (initRetire s).sr = s.sr := rfl
@[simp] theorem initRetire_pdata (s : State) : (initRetire s).pdata = s.pdata := rfl
@[simp] theorem initRetire_dirData (s : State) : (initRetire s).dirData = s.dirData := rfl
@[simp] theorem initRetire_dirClk (s : State) : (initRetire s).dirClk = s.dirClk := rfl
@[simp] theorem initRetire_latData (s : State) : (initRetire s).latData = s.latData := rfl
@[simp] theorem initRetire_latClk (s : State) : (initRetire s).latClk = s.latClk := rfl
@[simp] theorem initRetire_cs (s : State) : (initRetire s).cs = s.cs := rfl
@[simp] theorem initRetire_rtrace (s : State) : (initRetire s).rtrace = s.rtrace := rfl
@[simp] theorem initRetire_wtrace (s : State) : (initRetire s).wtrace = s.wtrace := rfl
@[simp] theorem initRetire_turn (s : State) : (initRetire s).turn = s.turn := rfl
@[simp] theorem initRetire_schedIx (s : State) : (initRetire s).schedIx = s.schedIx := rfl
@[simp] theorem initRetire_drawIx (s : State) : (initRetire s).drawIx = s.drawIx := rfl

/-! ### load -/

@[simp] theorem State.load_stream (s : State) (w : TxWord) : (s.load w).stream = s.stream := rfl
@[simp] theorem State.load_mem (s : State) (w : TxWord) : (s.load w).mem = s.mem := rfl
@[simp] theorem State.load_cp (s : State) (w : TxWord) : (s.load w).cp = s.cp := rfl
@[simp] theorem State.load_phase (s : State) (w : TxWord) : (s.load w).phase = s.phase := rfl
@[simp] theorem State.load_initDone (s : State) (w : TxWord) : (s.load w).initDone = s.initDone := rfl
@[simp] theorem State.load_fault (s : State) (w : TxWord) : (s.load w).fault = s.fault := rfl
@[simp] theorem State.load_faultCp (s : State) (w : TxWord) : (s.load w).faultCp = s.faultCp := rfl
@[simp] theorem State.load_faultWord (s : State) (w : TxWord) : (s.load w).faultWord = s.faultWord := rfl
@[simp] theorem State.load_en (s : State) (w : TxWord) : (s.load w).en = s.en := rfl
@[simp] theorem State.load_mstr (s : State) (w : TxWord) : (s.load w).mstr = s.mstr := rfl
@[simp] theorem State.load_w16 (s : State) (w : TxWord) : (s.load w).w16 = s.w16 := rfl
@[simp] theorem State.load_div (s : State) (w : TxWord) : (s.load w).div = s.div := rfl
@[simp] theorem State.load_unlocked (s : State) (w : TxWord) : (s.load w).unlocked = s.unlocked := rfl
@[simp] theorem State.load_txh (s : State) (w : TxWord) : (s.load w).txh = none := rfl
@[simp] theorem State.load_sr (s : State) (w : TxWord) :
    (s.load w).sr = some { v := w.v, w16 := w.w16, div := w.div, k := widthOf w.w16 } := rfl
@[simp] theorem State.load_pdata (s : State) (w : TxWord) : (s.load w).pdata = s.pdata := rfl
@[simp] theorem State.load_dirData (s : State) (w : TxWord) : (s.load w).dirData = s.dirData := rfl
@[simp] theorem State.load_dirClk (s : State) (w : TxWord) : (s.load w).dirClk = s.dirClk := rfl
@[simp] theorem State.load_latData (s : State) (w : TxWord) : (s.load w).latData = s.latData := rfl
@[simp] theorem State.load_latClk (s : State) (w : TxWord) : (s.load w).latClk = s.latClk := rfl
@[simp] theorem State.load_cs (s : State) (w : TxWord) : (s.load w).cs = s.cs := rfl
@[simp] theorem State.load_rtrace (s : State) (w : TxWord) : (s.load w).rtrace = s.rtrace := rfl
@[simp] theorem State.load_wtrace (s : State) (w : TxWord) : (s.load w).wtrace = s.wtrace := rfl
@[simp] theorem State.load_turn (s : State) (w : TxWord) : (s.load w).turn = s.turn := rfl
@[simp] theorem State.load_schedIx (s : State) (w : TxWord) : (s.load w).schedIx = s.schedIx := rfl
@[simp] theorem State.load_drawIx (s : State) (w : TxWord) : (s.load w).drawIx = s.drawIx := rfl

/-! ### shift -/

@[simp] theorem State.shift_stream (s : State) (r : ShiftWord) : (s.shift r).stream = s.stream := rfl
@[simp] theorem State.shift_mem (s : State) (r : ShiftWord) : (s.shift r).mem = s.mem := rfl
@[simp] theorem State.shift_cp (s : State) (r : ShiftWord) : (s.shift r).cp = s.cp := rfl
@[simp] theorem State.shift_phase (s : State) (r : ShiftWord) : (s.shift r).phase = s.phase := rfl
@[simp] theorem State.shift_initDone (s : State) (r : ShiftWord) : (s.shift r).initDone = s.initDone := rfl
@[simp] theorem State.shift_fault (s : State) (r : ShiftWord) : (s.shift r).fault = s.fault := rfl
@[simp] theorem State.shift_faultCp (s : State) (r : ShiftWord) : (s.shift r).faultCp = s.faultCp := rfl
@[simp] theorem State.shift_faultWord (s : State) (r : ShiftWord) : (s.shift r).faultWord = s.faultWord := rfl
@[simp] theorem State.shift_en (s : State) (r : ShiftWord) : (s.shift r).en = s.en := rfl
@[simp] theorem State.shift_mstr (s : State) (r : ShiftWord) : (s.shift r).mstr = s.mstr := rfl
@[simp] theorem State.shift_w16 (s : State) (r : ShiftWord) : (s.shift r).w16 = s.w16 := rfl
@[simp] theorem State.shift_div (s : State) (r : ShiftWord) : (s.shift r).div = s.div := rfl
@[simp] theorem State.shift_unlocked (s : State) (r : ShiftWord) : (s.shift r).unlocked = s.unlocked := rfl
@[simp] theorem State.shift_txh (s : State) (r : ShiftWord) : (s.shift r).txh = s.txh := rfl
@[simp] theorem State.shift_sr (s : State) (r : ShiftWord) :
    (s.shift r).sr = if r.k ≤ 1 then none else some { r with k := r.k - 1 } := rfl
@[simp] theorem State.shift_pdata (s : State) (r : ShiftWord) : (s.shift r).pdata = shiftBit r := rfl
@[simp] theorem State.shift_dirData (s : State) (r : ShiftWord) : (s.shift r).dirData = s.dirData := rfl
@[simp] theorem State.shift_dirClk (s : State) (r : ShiftWord) : (s.shift r).dirClk = s.dirClk := rfl
@[simp] theorem State.shift_latData (s : State) (r : ShiftWord) : (s.shift r).latData = s.latData := rfl
@[simp] theorem State.shift_latClk (s : State) (r : ShiftWord) : (s.shift r).latClk = s.latClk := rfl
@[simp] theorem State.shift_cs (s : State) (r : ShiftWord) : (s.shift r).cs = s.cs := rfl
@[simp] theorem State.shift_rtrace (s : State) (r : ShiftWord) : (s.shift r).rtrace = s.rtrace := rfl
@[simp] theorem State.shift_wtrace (s : State) (r : ShiftWord) :
    (s.shift r).wtrace = s.wtrace ++ [.edge (shiftBit r) s.cs .hw (some r.div)] := rfl
@[simp] theorem State.shift_turn (s : State) (r : ShiftWord) : (s.shift r).turn = s.turn := rfl
@[simp] theorem State.shift_schedIx (s : State) (r : ShiftWord) : (s.shift r).schedIx = s.schedIx := rfl
@[simp] theorem State.shift_drawIx (s : State) (r : ShiftWord) : (s.shift r).drawIx = s.drawIx := rfl

/-! ### chooseTurn -/

@[simp] theorem State.chooseTurn_stream (s : State) : (s.chooseTurn).stream = s.stream := rfl
@[simp] theorem State.chooseTurn_mem (s : State) : (s.chooseTurn).mem = s.mem := rfl
@[simp] theorem State.chooseTurn_cp (s : State) : (s.chooseTurn).cp = s.cp := rfl
@[simp] theorem State.chooseTurn_phase (s : State) : (s.chooseTurn).phase = s.phase := rfl
@[simp] theorem State.chooseTurn_initDone (s : State) : (s.chooseTurn).initDone = s.initDone := rfl
@[simp] theorem State.chooseTurn_fault (s : State) : (s.chooseTurn).fault = s.fault := rfl
@[simp] theorem State.chooseTurn_faultCp (s : State) : (s.chooseTurn).faultCp = s.faultCp := rfl
@[simp] theorem State.chooseTurn_faultWord (s : State) : (s.chooseTurn).faultWord = s.faultWord := rfl
@[simp] theorem State.chooseTurn_en (s : State) : (s.chooseTurn).en = s.en := rfl
@[simp] theorem State.chooseTurn_mstr (s : State) : (s.chooseTurn).mstr = s.mstr := rfl
@[simp] theorem State.chooseTurn_w16 (s : State) : (s.chooseTurn).w16 = s.w16 := rfl
@[simp] theorem State.chooseTurn_div (s : State) : (s.chooseTurn).div = s.div := rfl
@[simp] theorem State.chooseTurn_unlocked (s : State) : (s.chooseTurn).unlocked = s.unlocked := rfl
@[simp] theorem State.chooseTurn_txh (s : State) : (s.chooseTurn).txh = s.txh := rfl
@[simp] theorem State.chooseTurn_sr (s : State) : (s.chooseTurn).sr = s.sr := rfl
@[simp] theorem State.chooseTurn_pdata (s : State) : (s.chooseTurn).pdata = s.pdata := rfl
@[simp] theorem State.chooseTurn_dirData (s : State) : (s.chooseTurn).dirData = s.dirData := rfl
@[simp] theorem State.chooseTurn_dirClk (s : State) : (s.chooseTurn).dirClk = s.dirClk := rfl
@[simp] theorem State.chooseTurn_latData (s : State) : (s.chooseTurn).latData = s.latData := rfl
@[simp] theorem State.chooseTurn_latClk (s : State) : (s.chooseTurn).latClk = s.latClk := rfl
@[simp] theorem State.chooseTurn_cs (s : State) : (s.chooseTurn).cs = s.cs := rfl
@[simp] theorem State.chooseTurn_rtrace (s : State) : (s.chooseTurn).rtrace = s.rtrace := rfl
@[simp] theorem State.chooseTurn_wtrace (s : State) : (s.chooseTurn).wtrace = s.wtrace := rfl
@[simp] theorem State.chooseTurn_turn (s : State) :
    (s.chooseTurn).turn = if Config.schedule s.schedIx then .she else .seq := rfl
@[simp] theorem State.chooseTurn_schedIx (s : State) : (s.chooseTurn).schedIx = s.schedIx + 1 := rfl
@[simp] theorem State.chooseTurn_drawIx (s : State) : (s.chooseTurn).drawIx = s.drawIx := rfl

/-! ### setOutput -/

@[simp] theorem State.setOutput_stream (s : State) (p : Pin) : (s.setOutput p).stream = s.stream := by cases p <;> rfl
@[simp] theorem State.setOutput_mem (s : State) (p : Pin) : (s.setOutput p).mem = s.mem := by cases p <;> rfl
@[simp] theorem State.setOutput_cp (s : State) (p : Pin) : (s.setOutput p).cp = s.cp := by cases p <;> rfl
@[simp] theorem State.setOutput_phase (s : State) (p : Pin) : (s.setOutput p).phase = s.phase := by cases p <;> rfl
@[simp] theorem State.setOutput_initDone (s : State) (p : Pin) :
    (s.setOutput p).initDone = s.initDone := by cases p <;> rfl
@[simp] theorem State.setOutput_fault (s : State) (p : Pin) : (s.setOutput p).fault = s.fault := by cases p <;> rfl
@[simp] theorem State.setOutput_faultCp (s : State) (p : Pin) :
    (s.setOutput p).faultCp = s.faultCp := by cases p <;> rfl
@[simp] theorem State.setOutput_faultWord (s : State) (p : Pin) :
    (s.setOutput p).faultWord = s.faultWord := by cases p <;> rfl
@[simp] theorem State.setOutput_en (s : State) (p : Pin) : (s.setOutput p).en = s.en := by cases p <;> rfl
@[simp] theorem State.setOutput_mstr (s : State) (p : Pin) : (s.setOutput p).mstr = s.mstr := by cases p <;> rfl
@[simp] theorem State.setOutput_w16 (s : State) (p : Pin) : (s.setOutput p).w16 = s.w16 := by cases p <;> rfl
@[simp] theorem State.setOutput_div (s : State) (p : Pin) : (s.setOutput p).div = s.div := by cases p <;> rfl
@[simp] theorem State.setOutput_unlocked (s : State) (p : Pin) :
    (s.setOutput p).unlocked = s.unlocked := by cases p <;> rfl
@[simp] theorem State.setOutput_txh (s : State) (p : Pin) : (s.setOutput p).txh = s.txh := by cases p <;> rfl
@[simp] theorem State.setOutput_sr (s : State) (p : Pin) : (s.setOutput p).sr = s.sr := by cases p <;> rfl
@[simp] theorem State.setOutput_pdata (s : State) (p : Pin) : (s.setOutput p).pdata = s.pdata := by cases p <;> rfl
@[simp] theorem State.setOutput_latData (s : State) (p : Pin) :
    (s.setOutput p).latData = s.latData := by cases p <;> rfl
@[simp] theorem State.setOutput_latClk (s : State) (p : Pin) : (s.setOutput p).latClk = s.latClk := by cases p <;> rfl
@[simp] theorem State.setOutput_cs (s : State) (p : Pin) : (s.setOutput p).cs = s.cs := by cases p <;> rfl
@[simp] theorem State.setOutput_rtrace (s : State) (p : Pin) : (s.setOutput p).rtrace = s.rtrace := by cases p <;> rfl
@[simp] theorem State.setOutput_wtrace (s : State) (p : Pin) : (s.setOutput p).wtrace = s.wtrace := by cases p <;> rfl
@[simp] theorem State.setOutput_turn (s : State) (p : Pin) : (s.setOutput p).turn = s.turn := by cases p <;> rfl
@[simp] theorem State.setOutput_schedIx (s : State) (p : Pin) :
    (s.setOutput p).schedIx = s.schedIx := by cases p <;> rfl
@[simp] theorem State.setOutput_drawIx (s : State) (p : Pin) : (s.setOutput p).drawIx = s.drawIx := by cases p <;> rfl

/-! ### setLat -/

@[simp] theorem State.setLat_stream (s : State) (p : Pin) (b : Bool) :
    (s.setLat p b).stream = s.stream := by cases p <;> rfl
@[simp] theorem State.setLat_mem (s : State) (p : Pin) (b : Bool) : (s.setLat p b).mem = s.mem := by cases p <;> rfl
@[simp] theorem State.setLat_cp (s : State) (p : Pin) (b : Bool) : (s.setLat p b).cp = s.cp := by cases p <;> rfl
@[simp] theorem State.setLat_phase (s : State) (p : Pin) (b : Bool) :
    (s.setLat p b).phase = s.phase := by cases p <;> rfl
@[simp] theorem State.setLat_initDone (s : State) (p : Pin) (b : Bool) :
    (s.setLat p b).initDone = s.initDone := by cases p <;> rfl
@[simp] theorem State.setLat_fault (s : State) (p : Pin) (b : Bool) :
    (s.setLat p b).fault = s.fault := by cases p <;> rfl
@[simp] theorem State.setLat_faultCp (s : State) (p : Pin) (b : Bool) :
    (s.setLat p b).faultCp = s.faultCp := by cases p <;> rfl
@[simp] theorem State.setLat_faultWord (s : State) (p : Pin) (b : Bool) :
    (s.setLat p b).faultWord = s.faultWord := by cases p <;> rfl
@[simp] theorem State.setLat_en (s : State) (p : Pin) (b : Bool) : (s.setLat p b).en = s.en := by cases p <;> rfl
@[simp] theorem State.setLat_mstr (s : State) (p : Pin) (b : Bool) :
    (s.setLat p b).mstr = s.mstr := by cases p <;> rfl
@[simp] theorem State.setLat_w16 (s : State) (p : Pin) (b : Bool) : (s.setLat p b).w16 = s.w16 := by cases p <;> rfl
@[simp] theorem State.setLat_div (s : State) (p : Pin) (b : Bool) : (s.setLat p b).div = s.div := by cases p <;> rfl
@[simp] theorem State.setLat_unlocked (s : State) (p : Pin) (b : Bool) :
    (s.setLat p b).unlocked = s.unlocked := by cases p <;> rfl
@[simp] theorem State.setLat_txh (s : State) (p : Pin) (b : Bool) : (s.setLat p b).txh = s.txh := by cases p <;> rfl
@[simp] theorem State.setLat_sr (s : State) (p : Pin) (b : Bool) : (s.setLat p b).sr = s.sr := by cases p <;> rfl
@[simp] theorem State.setLat_pdata (s : State) (p : Pin) (b : Bool) :
    (s.setLat p b).pdata = s.pdata := by cases p <;> rfl
@[simp] theorem State.setLat_dirData (s : State) (p : Pin) (b : Bool) :
    (s.setLat p b).dirData = s.dirData := by cases p <;> rfl
@[simp] theorem State.setLat_dirClk (s : State) (p : Pin) (b : Bool) :
    (s.setLat p b).dirClk = s.dirClk := by cases p <;> rfl
@[simp] theorem State.setLat_cs (s : State) (p : Pin) (b : Bool) : (s.setLat p b).cs = s.cs := by cases p <;> rfl
@[simp] theorem State.setLat_rtrace (s : State) (p : Pin) (b : Bool) :
    (s.setLat p b).rtrace = s.rtrace := by cases p <;> rfl
@[simp] theorem State.setLat_wtrace (s : State) (p : Pin) (b : Bool) :
    (s.setLat p b).wtrace = s.wtrace := by cases p <;> rfl
@[simp] theorem State.setLat_turn (s : State) (p : Pin) (b : Bool) :
    (s.setLat p b).turn = s.turn := by cases p <;> rfl
@[simp] theorem State.setLat_schedIx (s : State) (p : Pin) (b : Bool) :
    (s.setLat p b).schedIx = s.schedIx := by cases p <;> rfl
@[simp] theorem State.setLat_drawIx (s : State) (p : Pin) (b : Bool) :
    (s.setLat p b).drawIx = s.drawIx := by cases p <;> rfl

/-! ### guardCall -/

@[simp] theorem State.guardCall_stream (s : State) (c : CsLevel) :
    (s.guardCall c).stream = s.stream := by unfold State.guardCall; split <;> simp_all
@[simp] theorem State.guardCall_mem (s : State) (c : CsLevel) :
    (s.guardCall c).mem = s.mem := by unfold State.guardCall; split <;> simp_all
@[simp] theorem State.guardCall_cp (s : State) (c : CsLevel) :
    (s.guardCall c).cp = s.cp := by unfold State.guardCall; split <;> simp_all
@[simp] theorem State.guardCall_phase (s : State) (c : CsLevel) :
    (s.guardCall c).phase = s.phase := by unfold State.guardCall; split <;> simp_all
@[simp] theorem State.guardCall_initDone (s : State) (c : CsLevel) :
    (s.guardCall c).initDone = s.initDone := by unfold State.guardCall; split <;> simp_all
@[simp] theorem State.guardCall_fault (s : State) (c : CsLevel) :
    (s.guardCall c).fault = s.fault := by unfold State.guardCall; split <;> simp_all
@[simp] theorem State.guardCall_faultCp (s : State) (c : CsLevel) :
    (s.guardCall c).faultCp = s.faultCp := by unfold State.guardCall; split <;> simp_all
@[simp] theorem State.guardCall_faultWord (s : State) (c : CsLevel) :
    (s.guardCall c).faultWord = s.faultWord := by unfold State.guardCall; split <;> simp_all
@[simp] theorem State.guardCall_en (s : State) (c : CsLevel) :
    (s.guardCall c).en = s.en := by unfold State.guardCall; split <;> simp_all
@[simp] theorem State.guardCall_mstr (s : State) (c : CsLevel) :
    (s.guardCall c).mstr = s.mstr := by unfold State.guardCall; split <;> simp_all
@[simp] theorem State.guardCall_w16 (s : State) (c : CsLevel) :
    (s.guardCall c).w16 = s.w16 := by unfold State.guardCall; split <;> simp_all
@[simp] theorem State.guardCall_div (s : State) (c : CsLevel) :
    (s.guardCall c).div = s.div := by unfold State.guardCall; split <;> simp_all
@[simp] theorem State.guardCall_unlocked (s : State) (c : CsLevel) :
    (s.guardCall c).unlocked = s.unlocked := by unfold State.guardCall; split <;> simp_all
@[simp] theorem State.guardCall_txh (s : State) (c : CsLevel) :
    (s.guardCall c).txh = s.txh := by unfold State.guardCall; split <;> simp_all
@[simp] theorem State.guardCall_sr (s : State) (c : CsLevel) :
    (s.guardCall c).sr = s.sr := by unfold State.guardCall; split <;> simp_all
@[simp] theorem State.guardCall_pdata (s : State) (c : CsLevel) :
    (s.guardCall c).pdata = s.pdata := by unfold State.guardCall; split <;> simp_all
@[simp] theorem State.guardCall_dirData (s : State) (c : CsLevel) :
    (s.guardCall c).dirData = s.dirData := by unfold State.guardCall; split <;> simp_all
@[simp] theorem State.guardCall_dirClk (s : State) (c : CsLevel) :
    (s.guardCall c).dirClk = s.dirClk := by unfold State.guardCall; split <;> simp_all
@[simp] theorem State.guardCall_latData (s : State) (c : CsLevel) :
    (s.guardCall c).latData = s.latData := by unfold State.guardCall; split <;> simp_all
@[simp] theorem State.guardCall_latClk (s : State) (c : CsLevel) :
    (s.guardCall c).latClk = s.latClk := by unfold State.guardCall; split <;> simp_all
@[simp] theorem State.guardCall_cs (s : State) (c : CsLevel) :
    (s.guardCall c).cs = if Config.guardPresent then c else s.cs := by unfold State.guardCall; split <;> simp_all
@[simp] theorem State.guardCall_rtrace (s : State) (c : CsLevel) :
    (s.guardCall c).rtrace = s.rtrace := by unfold State.guardCall; split <;> simp_all
@[simp] theorem State.guardCall_wtrace (s : State) (c : CsLevel) :
    (s.guardCall c).wtrace = s.wtrace ++ (if Config.guardPresent then [.cs c] else []) := by unfold State.guardCall; split <;> simp_all
@[simp] theorem State.guardCall_turn (s : State) (c : CsLevel) :
    (s.guardCall c).turn = s.turn := by unfold State.guardCall; split <;> simp_all
@[simp] theorem State.guardCall_schedIx (s : State) (c : CsLevel) :
    (s.guardCall c).schedIx = s.schedIx := by unfold State.guardCall; split <;> simp_all
@[simp] theorem State.guardCall_drawIx (s : State) (c : CsLevel) :
    (s.guardCall c).drawIx = s.drawIx := by unfold State.guardCall; split <;> simp_all

/-! ### The flags under the updates that leave TXH and SR alone -/

@[simp] theorem State.emitR_txe (s : State) (e : REvent) : (s.emitR e).txe = s.txe := by simp [State.txe]
@[simp] theorem State.emitR_idle (s : State) (e : REvent) : (s.emitR e).idle = s.idle := by simp [State.idle]
@[simp] theorem State.emitW_txe (s : State) (e : WEvent) : (s.emitW e).txe = s.txe := by simp [State.txe]
@[simp] theorem State.emitW_idle (s : State) (e : WEvent) : (s.emitW e).idle = s.idle := by simp [State.idle]
@[simp] theorem State.wireUpdate_txe (s : State) (o : Origin) (c0 : Level) : (s.wireUpdate o c0).txe = s.txe := by simp [State.txe]
@[simp] theorem State.wireUpdate_idle (s : State) (o : Origin) (c0 : Level) : (s.wireUpdate o c0).idle = s.idle := by simp [State.idle]
@[simp] theorem State.raiseFault_txe (s : State) (c : FaultCode) : (s.raiseFault c).txe = s.txe := by simp [State.txe]
@[simp] theorem State.raiseFault_idle (s : State) (c : FaultCode) : (s.raiseFault c).idle = s.idle := by simp [State.idle]
@[simp] theorem State.start_txe (s : State) (i : Instr) (l : Locals) : (s.start i l).txe = s.txe := by simp [State.txe]
@[simp] theorem State.start_idle (s : State) (i : Instr) (l : Locals) : (s.start i l).idle = s.idle := by simp [State.idle]
@[simp] theorem State.goto_txe (s : State) (i : Instr) (k : Nat) (l : Locals) : (s.goto i k l).txe = s.txe := by simp [State.txe]
@[simp] theorem State.goto_idle (s : State) (i : Instr) (k : Nat) (l : Locals) : (s.goto i k l).idle = s.idle := by simp [State.idle]
@[simp] theorem State.retire_txe (s : State) (i : Instr) : (s.retire i).txe = s.txe := by simp [State.txe]
@[simp] theorem State.retire_idle (s : State) (i : Instr) : (s.retire i).idle = s.idle := by simp [State.idle]
@[simp] theorem initRetire_txe (s : State) : (initRetire s).txe = s.txe := by simp [State.txe]
@[simp] theorem initRetire_idle (s : State) : (initRetire s).idle = s.idle := by simp [State.idle]
@[simp] theorem State.chooseTurn_txe (s : State) : (s.chooseTurn).txe = s.txe := by simp [State.txe]
@[simp] theorem State.chooseTurn_idle (s : State) : (s.chooseTurn).idle = s.idle := by simp [State.idle]
@[simp] theorem State.setOutput_txe (s : State) (p : Pin) : (s.setOutput p).txe = s.txe := by simp [State.txe]
@[simp] theorem State.setOutput_idle (s : State) (p : Pin) : (s.setOutput p).idle = s.idle := by simp [State.idle]
@[simp] theorem State.setLat_txe (s : State) (p : Pin) (b : Bool) : (s.setLat p b).txe = s.txe := by simp [State.txe]
@[simp] theorem State.setLat_idle (s : State) (p : Pin) (b : Bool) : (s.setLat p b).idle = s.idle := by simp [State.idle]
@[simp] theorem State.guardCall_txe (s : State) (c : CsLevel) : (s.guardCall c).txe = s.txe := by simp [State.txe]
@[simp] theorem State.guardCall_idle (s : State) (c : CsLevel) : (s.guardCall c).idle = s.idle := by simp [State.idle]

end Sys2Proof.Machine
end

