-- ==== Sys2Proof/Laws/Ops.lean ====
section
/-! SUPPORT. One lemma for each shared operation that says everything it can do: when each µop completes and with what
state, when it stays current, when and how it faults; what no µop changes; what SHE's step does. -/

namespace Sys2Proof.Machine

@[simp] theorem State.setOutput_dir (s : State) (p q : Pin) :
    (s.setOutput p).dir q = (decide (p = q) || s.dir q) := by cases p <;> cases q <;> rfl

@[simp] theorem State.setLat_lat (s : State) (p q : Pin) (b : Bool) :
    (s.setLat p b).lat q = if p = q then b else s.lat q := by cases p <;> cases q <;> rfl

@[simp] theorem State.setLat_dir (s : State) (p q : Pin) (b : Bool) : (s.setLat p b).dir q = s.dir q := by
  cases p <;> cases q <;> rfl

/-! ### When a µop completes -/

theorem uSpinTXE_spec (s : State) :
    (s.txe = true ∧ uSpinTXE s = .done (s.emitR (.poll true s.idle))) ∨
    (s.txe = false ∧ uSpinTXE s = .again (s.emitR (.poll false s.idle))) := by
  cases h : s.txe <;> simp [uSpinTXE, State.pollEvent, h]

theorem uSpinIdle_spec (s : State) :
    (s.idle = true ∧ uSpinIdle s = .done (s.emitR (.poll s.txe true))) ∨
    (s.idle = false ∧ uSpinIdle s = .again (s.emitR (.poll s.txe false))) := by
  cases h : s.idle <;> simp [uSpinIdle, State.pollEvent, h]

theorem uSetCfg_spec (w16 : Bool) (div : Byte) (s : State) :
    (s.unlocked = false ∧ uSetCfg w16 div s = .raised .cfgLocked) ∨
    (s.unlocked = true ∧ s.txe = false ∧ uSetCfg w16 div s = .raised .cfgWhilePending) ∨
    (s.unlocked = true ∧ s.txe = true ∧
      uSetCfg w16 div s = .done ({ s with w16 := w16, div := div }.emitR (.cfg w16 div))) := by
  cases hu : s.unlocked <;> cases ht : s.txe <;> simp [uSetCfg, hu, ht]

theorem uWriteTDR_done {v : Half} {s t : State} :
    uWriteTDR v s = .done t ↔
      s.en = true ∧ s.mstr = true ∧ s.txe = true ∧ (s.w16 = false → v.extractLsb' 8 8 = 0#8) ∧ s.div ≠ 0#8 ∧
      t = { s with txh := some { v := v, w16 := s.w16, div := s.div } }.emitR (.queue v s.w16) := by
  unfold uWriteTDR
  cases s.en <;> cases s.mstr <;> cases s.txe <;> simp
  cases s.w16 <;> by_cases hd : s.div = 0#8 <;> by_cases hv : v.extractLsb' 8 8 = 0#8 <;> simp [hd, hv, eq_comm]

theorem uWriteTDR_not_again {v : Half} {s t : State} : uWriteTDR v s ≠ .again t := by
  unfold uWriteTDR
  repeat' split
  all_goals simp

theorem uDisable_spec (s : State) :
    (s.idle = false ∧ uDisable s = .raised .disableWhileBusy) ∨
    (s.idle = true ∧ uDisable s = .done (({ s with en := false }.emitR .disable).wireUpdate .mux s.wireClk)) := by
  cases h : s.idle <;> simp [uDisable, h]

theorem uSetMaster_spec (s : State) :
    (s.unlocked = false ∧ uSetMaster s = .raised .cfgLocked) ∨
    (s.unlocked = true ∧ uSetMaster s = .done (({ s with mstr := true }.emitR .master).wireUpdate .mux s.wireClk)) := by
  cases h : s.unlocked <;> simp [uSetMaster, h]

theorem uPinOut_spec (p : Pin) (s : State) :
    (s.en = true ∧ uPinOut p s = .raised .pinConflict) ∨
    (s.en = false ∧ uPinOut p s = .done (((s.setOutput p).emitR (.pinOut p)).wireUpdate .mux s.wireClk)) := by
  cases h : s.en <;> simp [uPinOut, h]

theorem uPinHigh_spec (p : Pin) (s : State) :
    ((s.en = true ∨ s.dir p = false) ∧ uPinHigh p s = .raised .pinConflict) ∨
    (s.en = false ∧ s.dir p = true ∧
      uPinHigh p s = .done (((s.setLat p true).emitR (.pinHigh p)).wireUpdate .manual s.wireClk)) := by
  cases h : s.en <;> cases h' : s.dir p <;> simp [uPinHigh, h, h']

theorem uPinLow_spec (p : Pin) (s : State) :
    ((s.en = true ∨ s.dir p = false) ∧ uPinLow p s = .raised .pinConflict) ∨
    (s.en = false ∧ s.dir p = true ∧
      uPinLow p s = .done (((s.setLat p false).emitR (.pinLow p)).wireUpdate .manual s.wireClk)) := by
  cases h : s.en <;> cases h' : s.dir p <;> simp [uPinLow, h, h']

/-! ### What every µop leaves alone -/

/-- The state a µop leaves, whether it completes or stays current. -/
def UopResult.reaches (r : UopResult) (t : State) : Prop := r = .done t ∨ r = .again t

/-- No µop changes the sequencer's own registers, what was launched, the shift register or the schedule. -/
structure UopFrame (s t : State) : Prop where
  stream : t.stream = s.stream
  mem : t.mem = s.mem
  cp : t.cp = s.cp
  phase : t.phase = s.phase
  initDone : t.initDone = s.initDone
  fault : t.fault = s.fault
  faultCp : t.faultCp = s.faultCp
  faultWord : t.faultWord = s.faultWord
  sr : t.sr = s.sr
  pdata : t.pdata = s.pdata
  turn : t.turn = s.turn
  schedIx : t.schedIx = s.schedIx

theorem runUop_frame {u : Uop} {s t : State} (h : (runUop u s).reaches t) : UopFrame s t := by
  unfold UopResult.reaches at h
  cases u
  case spinTxe =>
    rcases uSpinTXE_spec s with ⟨-, e⟩ | ⟨-, e⟩ <;> simp only [runUop, e] at h <;> rcases h with h | h <;> cases h
    all_goals constructor <;> rfl
  case spinIdle =>
    rcases uSpinIdle_spec s with ⟨-, e⟩ | ⟨-, e⟩ <;> simp only [runUop, e] at h <;> rcases h with h | h <;> cases h
    all_goals constructor <;> rfl
  case setCfg w d =>
    rcases uSetCfg_spec w d s with ⟨-, e⟩ | ⟨-, -, e⟩ | ⟨-, -, e⟩ <;> simp only [runUop, e] at h <;>
      rcases h with h | h <;> cases h
    all_goals constructor <;> rfl
  case writeTdr v =>
    rcases h with h | h
    · obtain ⟨-, -, -, -, -, rfl⟩ := uWriteTDR_done.1 h
      constructor <;> rfl
    · exact absurd h uWriteTDR_not_again
  case enable =>
    rcases h with h | h <;> cases h
    all_goals constructor <;> rfl
  case disable =>
    rcases uDisable_spec s with ⟨-, e⟩ | ⟨-, e⟩ <;> simp only [runUop, e] at h <;> rcases h with h | h <;> cases h
    all_goals constructor <;> rfl
  case unlock =>
    rcases h with h | h <;> cases h
    all_goals constructor <;> rfl
  case setMaster =>
    rcases uSetMaster_spec s with ⟨-, e⟩ | ⟨-, e⟩ <;> simp only [runUop, e] at h <;> rcases h with h | h <;> cases h
    all_goals constructor <;> rfl
  case pinOut p =>
    rcases uPinOut_spec p s with ⟨-, e⟩ | ⟨-, e⟩ <;> simp only [runUop, e] at h <;> rcases h with h | h <;> cases h
    all_goals constructor <;> simp
  case pinHigh p =>
    rcases uPinHigh_spec p s with ⟨-, e⟩ | ⟨-, -, e⟩ <;> simp only [runUop, e] at h <;> rcases h with h | h <;> cases h
    all_goals constructor <;> simp
  case pinLow p =>
    rcases uPinLow_spec p s with ⟨-, e⟩ | ⟨-, -, e⟩ <;> simp only [runUop, e] at h <;> rcases h with h | h <;> cases h
    all_goals constructor <;> simp
  case select =>
    rcases h with h | h <;> cases h
    all_goals constructor <;> simp
  case release =>
    rcases h with h | h <;> cases h
    all_goals constructor <;> simp
  case postBlock n =>
    rcases h with h | h <;> cases h
    all_goals constructor <;> rfl

/-- Only the two spins stay current. -/
theorem runUop_again {u : Uop} {s t : State} (h : runUop u s = .again t) :
    t = s.emitR s.pollEvent ∧ (u = .spinTxe ∧ s.txe = false ∨ u = .spinIdle ∧ s.idle = false) := by
  cases u
  case spinTxe => cases ht : s.txe <;> simp_all [runUop, uSpinTXE]
  case spinIdle => cases ht : s.idle <;> simp_all [runUop, uSpinIdle]
  case writeTdr v => exact absurd h uWriteTDR_not_again
  all_goals
    simp only [runUop, uSetCfg, uEnable, uDisable, uUnlock, uSetMaster, uPinOut, uPinHigh, uPinLow, uSelect, uRelease,
      uPostBlock] at h
    repeat' split at h
    all_goals cases h

/-! ### SEQ's step at a position, and SHE's step -/

/-- What `runMicro` can do. -/
theorem runMicro_next {i : Instr} {m : Micro} {s t : State} (h : runMicro i m s = .next t) :
    (m = .retire ∧ t = s.retire i) ∨
    ∃ u k l, m = .uop u k l ∧
      ((∃ t', runUop u s = .done t' ∧ t = t'.goto i k l) ∨ runUop u s = .again t ∨
        ∃ c, runUop u s = .raised c ∧ t = s.raiseFault c) := by
  cases m with
  | retire => left; cases h; exact ⟨rfl, rfl⟩
  | blocked => cases h
  | uop u k l =>
    right
    refine ⟨u, k, l, rfl, ?_⟩
    simp only [runMicro] at h
    split at h <;> cases h
    · exact .inl ⟨_, ‹_›, rfl⟩
    · exact .inr (.inl ‹_›)
    · exact .inr (.inr ⟨_, ‹_›, rfl⟩)

@[simp] theorem runCommand_idle {i : Instr} {check : Option FaultCode} {program : Nat → Locals → Micro} {s : State}
    (h : s.phase = .idle) :
    runCommand i check program s =
      match check with
      | some code => .next (s.raiseFault code)
      | none => .next (s.start i Locals.start) := by
  cases check <;> simp [runCommand, h]

@[simp] theorem runCommand_running {i c : Instr} {check : Option FaultCode} {program : Nat → Locals → Micro} {s : State}
    {k : Nat} {l : Locals} (h : s.phase = .running c k l) :
    runCommand i check program s = runMicro i (program k l) s := by
  simp [runCommand, h]

/-- What SHE's step does where it has one: a SHIFT of SR, or a LOAD of TXH into an empty SR. -/
theorem sheStep_cases {s : State} (h : s.sheReady = true) :
    (∃ r, s.sr = some r ∧ sheStep s = s.shift r) ∨ (∃ w, s.sr = none ∧ s.txh = some w ∧ sheStep s = s.load w) := by
  cases hs : s.sr with
  | some r => exact .inl ⟨r, rfl, by simp [sheStep, hs]⟩
  | none =>
    cases ht : s.txh with
    | some w => exact .inr ⟨w, rfl, rfl, by simp [sheStep, hs, ht]⟩
    | none => simp [State.sheReady, hs, ht] at h

/-- What a step of the block is: SEQ's where SHE has none or `turn` names SEQ, SHE's otherwise. -/
theorem agentsStep_next {s t : State} (h : agentsStep s = .next t) :
    (s.sheReady = false ∧ seqStep s = .next t) ∨
    (s.sheReady = true ∧ s.turn = .seq ∧ ∃ u, seqStep s = .next u ∧ t = u.chooseTurn) ∨
    (s.sheReady = true ∧ s.turn = .she ∧ (∃ u, seqStep s = .next u) ∧ t = (sheStep s).chooseTurn) ∨
    (s.sheReady = true ∧ (∃ r, seqStep s = .fault r) ∧ t = sheStep s) := by
  unfold agentsStep at h
  split at h
  · next hr =>
    split at h
    · split at h <;> cases h
      · exact .inr (.inl ⟨hr, ‹_›, _, ‹_›, rfl⟩)
      · exact .inr (.inr (.inl ⟨hr, ‹_›, ⟨_, ‹_›⟩, rfl⟩))
    · cases h; exact .inr (.inr (.inr ⟨hr, ⟨_, ‹_›⟩, rfl⟩))
    · cases h
  · next hr => exact .inl ⟨by simpa using hr, h⟩

end Sys2Proof.Machine
end

