-- ==== Sys2Proof/Laws/Exec.lean ====
section
/-! SUPPORT. The 22 meanings under one view: each is `runCommand` with a check and a micro-program. What `exec` can do is
said once here (`exec_next`); what a command leaves alone follows for all commands at once. -/

namespace Sys2Proof.Machine

/-- The command-level check of a command (60_exceptions R138 steps 4 to 6). -/
def commandCheck (i : Instr) (s : State) : Option FaultCode :=
  match i with
  | .init => reinitCheck s
  | .sel => initialisedCheck s
  | .rel => initialisedCheck s
  | .wbyte _ => initialisedCheck s
  | .wword _ => initialisedCheck s
  | .widle => initialisedCheck s
  | .wrep _ _ => initialisedCheck s
  | .wbv _ _ => initialisedCheck s
  | .wseq _ a n => firstFault (initialisedCheck s) (rangeCheck a n)
  | .wbit _ _ => initialisedCheck s
  | .wpix a => pixCheck a s
  | .pSpintxe => none
  | .pSpinidle => none
  | .pCfg _ _ => none
  | .pWtdr _ => none
  | .pEn => none
  | .pDis => none
  | .pUnlock => none
  | .pMaster => none
  | .pPinout _ => none
  | .pPinhi _ => none
  | .pPinlo _ => none

/-- The micro-program of a command. -/
def commandProgram (i : Instr) (mem : List Host.Cell) : Nat → Locals → Micro :=
  match i with
  | .init => initProgram
  | .sel => singleUop .select
  | .rel => singleUop .release
  | .wbyte b => writeProgram false (zext16 b)
  | .wword w => writeProgram true w
  | .widle => singleUop .spinIdle
  | .wrep b n => repProgram b n.toNat
  | .wbv b n => bvProgram b n.toNat
  | .wseq t a n => seqProgram mem t a n
  | .wbit b x => bitProgram b x
  | .wpix a => pixProgram mem a
  | .pSpintxe => singleUop .spinTxe
  | .pSpinidle => singleUop .spinIdle
  | .pCfg w d => singleUop (.setCfg w d)
  | .pWtdr v => singleUop (.writeTdr v)
  | .pEn => singleUop .enable
  | .pDis => singleUop .disable
  | .pUnlock => singleUop .unlock
  | .pMaster => singleUop .setMaster
  | .pPinout p => singleUop (.pinOut p)
  | .pPinhi p => singleUop (.pinHigh p)
  | .pPinlo p => singleUop (.pinLow p)

/-- The retire step of a command: INIT's also sets INIT_DONE (42_init_select R120). -/
def commandRetire (i : Instr) (s : State) : State := if i = .init then initRetire s else s.retire i

/-- The decode step of a command that has passed the decode checks (40_execution R80). -/
theorem exec_idle {i : Instr} {s : State} (h : s.phase = .idle) :
    exec i s =
      match commandCheck i s with
      | some code => .next (s.raiseFault code)
      | none => .next (s.start i Locals.start) := by
  cases i
  case init => simp only [exec, execInit, h]; rw [runCommand_idle h]; rfl
  all_goals
    simp only [exec, execSel, execRel, execWbyte, execWword, execWidle, execWrep, execWbv, execWseq, execWbit, execWpix,
      execPSpintxe, execPSpinidle, execPCfg, execPWtdr, execPEn, execPDis, execPUnlock, execPMaster, execPPinout,
      execPPinhi, execPPinlo]
    rw [runCommand_idle h]
    rfl

/-- SEQ's step in a running command (40_execution R81, R82). -/
theorem exec_running {i c : Instr} {s : State} {k : Nat} {l : Locals} (h : s.phase = .running c k l) :
    exec i s =
      match commandProgram i s.mem k l with
      | .retire => .next (commandRetire i s)
      | m => runMicro i m s := by
  cases i
  case init =>
    simp only [exec, execInit, h, commandProgram, commandRetire]
    cases initProgram k l <;> rfl
  all_goals
    simp only [exec, execSel, execRel, execWbyte, execWword, execWidle, execWrep, execWbv, execWseq, execWbit, execWpix,
      execPSpintxe, execPSpinidle, execPCfg, execPWtdr, execPEn, execPDis, execPUnlock, execPMaster, execPPinout,
      execPPinhi, execPPinlo]
    rw [runCommand_running h]
    simp only [commandProgram, commandRetire, reduceCtorEq, if_false]
    split
    · next e => rw [e]; rfl
    · rfl

/-- Everything a SEQ step for a command can do (40_execution R80-R85). -/
theorem exec_next {i : Instr} {s t : State} (h : exec i s = .next t) :
    (s.phase = .idle ∧
      ((∃ c, commandCheck i s = some c ∧ t = s.raiseFault c) ∨
        commandCheck i s = none ∧ t = s.start i Locals.start)) ∨
    ∃ c k l, s.phase = .running c k l ∧
      ((commandProgram i s.mem k l = .retire ∧ t = commandRetire i s) ∨
        ∃ u k' l', commandProgram i s.mem k l = .uop u k' l' ∧
          ((∃ t', runUop u s = .done t' ∧ t = t'.goto i k' l') ∨ runUop u s = .again t ∨
            ∃ c, runUop u s = .raised c ∧ t = s.raiseFault c)) := by
  cases hp : s.phase with
  | idle =>
    refine .inl ⟨rfl, ?_⟩
    rw [exec_idle hp] at h
    cases hc : commandCheck i s with
    | some c => rw [hc] at h; cases h; exact .inl ⟨c, rfl, rfl⟩
    | none => rw [hc] at h; cases h; exact .inr ⟨rfl, rfl⟩
  | running c k l =>
    refine .inr ⟨c, k, l, rfl, ?_⟩
    rw [exec_running hp] at h
    cases hm : commandProgram i s.mem k l with
    | retire => rw [hm] at h; cases h; exact .inl ⟨rfl, rfl⟩
    | blocked => rw [hm] at h; cases h
    | uop u k' l' =>
      rw [hm] at h
      rcases runMicro_next h with ⟨e, -⟩ | ⟨u₀, k₀, l₀, e, hr⟩
      · cases e
      · cases e; exact .inr ⟨u, k', l', rfl, hr⟩

/-- No meaning refuses. -/
theorem exec_not_refused (i : Instr) (s : State) (r : Refusal) : exec i s ≠ .refused r := by
  intro h
  cases hp : s.phase with
  | idle => rw [exec_idle hp] at h; cases hc : commandCheck i s <;> rw [hc] at h <;> cases h
  | running c k l =>
    rw [exec_running hp] at h
    cases hm : commandProgram i s.mem k l with
    | retire => rw [hm] at h; cases h
    | blocked => rw [hm] at h; cases h
    | uop u k' l' =>
      rw [hm] at h
      simp only [runMicro] at h
      split at h <;> cases h

/-- What SEQ's step can do (40_execution R80-R82). -/
theorem seqStep_next {s t : State} (h : seqStep s = .next t) :
    s.fault = none ∧
      ((s.phase = .idle ∧
          ((∃ e, fetch s = some (.error e) ∧ t = s.raiseFault (decodeFault e)) ∨
            ∃ i, fetch s = some (.ok i) ∧ exec i s = .next t)) ∨
        ∃ c k l, s.phase = .running c k l ∧ exec c s = .next t) := by
  unfold seqStep at h
  split at h
  · cases h
  · next hf =>
    refine ⟨hf, ?_⟩
    split at h
    · next c k l hp => exact .inr ⟨c, k, l, hp, h⟩
    · next hp =>
      refine .inl ⟨hp, ?_⟩
      split at h
      · cases h
      · next e he => cases h; exact .inl ⟨e, he, rfl⟩
      · next i hi => exact .inr ⟨i, hi, h⟩

end Sys2Proof.Machine
end

