-- ==== Sys2Proof/Laws/Memory.lean ====
section
/-! SUPPORT. The launch memory: a placement is read back, leaves every other address alone and keeps the canonical form. -/

namespace Sys2Proof.Machine

theorem Memory.read_place_same (mem : List Host.Cell) (a : Nat) (b : Byte) :
    Memory.read (Memory.place mem a b) a = some b := by
  induction mem with
  | nil => simp [Memory.place, Memory.read]
  | cons c rest ih =>
    unfold Memory.place
    split
    · simp [Memory.read]
    · split
      · simp [Memory.read]
      · next h => simp [Memory.read, Ne.symm h, ih]

theorem Memory.read_place_other (mem : List Host.Cell) (a a' : Nat) (b : Byte) (h : a' ≠ a) :
    Memory.read (Memory.place mem a b) a' = Memory.read mem a' := by
  induction mem with
  | nil => simp [Memory.place, Memory.read, h.symm]
  | cons c rest ih =>
    unfold Memory.place
    split
    · simp [Memory.read, h.symm]
    · split
      · next hc => simp [Memory.read, h.symm, ← hc]
      · simp [Memory.read, ih]

/-- In a canonical memory every address is at or above the first, and below 2^32. -/
theorem Memory.wf_cons {c : Host.Cell} {rest : List Host.Cell} :
    Memory.wf (c :: rest) = true ↔
      c.1 < 2 ^ 32 ∧ Memory.wf rest = true ∧ ∀ d ∈ rest, c.1 < d.1 := by
  induction rest generalizing c with
  | nil => simp [Memory.wf]
  | cons d rest ih =>
    have hd := ih (c := d)
    simp only [Memory.wf, Bool.and_eq_true, decide_eq_true_eq, List.mem_cons, forall_eq_or_imp]
    constructor
    · rintro ⟨hcd, hw⟩
      obtain ⟨hlt, -, hall⟩ := hd.1 hw
      exact ⟨by omega, hw, hcd, fun e he => lt_trans hcd (hall e he)⟩
    · rintro ⟨-, hw, hcd, -⟩
      exact ⟨hcd, hw⟩

theorem Memory.mem_place {mem : List Host.Cell} {a : Nat} {b : Byte} {d : Host.Cell}
    (h : d ∈ Memory.place mem a b) : d = (a, b) ∨ d ∈ mem := by
  induction mem with
  | nil => simpa [Memory.place] using h
  | cons c rest ih =>
    unfold Memory.place at h
    split at h
    · simpa using h
    · split at h
      · rcases List.mem_cons.1 h with h | h <;> simp [h]
      · rcases List.mem_cons.1 h with h | h
        · simp [h]
        · rcases ih h with h | h <;> simp [h]

theorem Memory.wf_place {mem : List Host.Cell} {a : Nat} (b : Byte) (ha : a < 2 ^ 32)
    (h : Memory.wf mem = true) : Memory.wf (Memory.place mem a b) = true := by
  induction mem with
  | nil => simpa [Memory.place, Memory.wf] using ha
  | cons c rest ih =>
    obtain ⟨hc, hr, hall⟩ := Memory.wf_cons.1 h
    unfold Memory.place
    split
    · next hac =>
      refine Memory.wf_cons.2 ⟨ha, h, fun d hd => ?_⟩
      rcases List.mem_cons.1 hd with rfl | hd
      · exact hac
      · exact lt_trans hac (hall d hd)
    · split
      · next hac => exact Memory.wf_cons.2 ⟨ha, hr, fun d hd => hac ▸ hall d hd⟩
      · next h1 h2 =>
        refine Memory.wf_cons.2 ⟨hc, ih hr, fun d hd => ?_⟩
        rcases Memory.mem_place hd with rfl | hd
        · show c.1 < a
          omega
        · exact hall d hd

/-- In a canonical memory only addresses below 2^32 are admitted. -/
theorem Memory.read_lt {mem : List Host.Cell} {a : Nat} {b : Byte} (h : Memory.wf mem = true)
    (hr : Memory.read mem a = some b) : a < 2 ^ 32 := by
  induction mem with
  | nil => simp [Memory.read] at hr
  | cons c rest ih =>
    obtain ⟨hc, hw, -⟩ := Memory.wf_cons.1 h
    simp only [Memory.read] at hr
    split at hr
    · omega
    · exact ih hw hr

/-- What reading a window answers: its bytes one by one, or none where one is not admitted. -/
theorem readBytes_eq_some {mem : List Host.Cell} {a n : Nat} {w : List Byte} (h : readBytes mem a n = some w) :
    w.length = n ∧ ∀ i, i < n → Memory.read mem (a + i) = w[i]? := by
  induction n generalizing a w with
  | zero => simp [readBytes] at h; simp [h]
  | succ n ih =>
    simp only [readBytes] at h
    split at h
    · simp at h
    · next b hb =>
      obtain ⟨w', hw', rfl⟩ := Option.map_eq_some_iff.1 h
      obtain ⟨hl, hi⟩ := ih hw'
      refine ⟨by simp [hl], fun i hin => ?_⟩
      cases i with
      | zero => simpa using hb
      | succ i => simpa [Nat.add_assoc, Nat.add_comm 1] using hi i (by omega)

end Sys2Proof.Machine
end

