-- ==== Sys2Proof/Laws/Operands.lean ====
section
/-! SUPPORT. The transport's divider and zero-extended bytes are always inside what uSetCfg and uWriteTDR ask for. -/

namespace Sys2Proof.Machine

/-- `DIV_T` is never 0 (00_scope R5). -/
theorem divT_ne_zero : Config.divT ≠ 0#8 := by
  have h := Config.divTPred.isLt
  intro e
  have := congrArg BitVec.toNat e
  simp [Config.divT] at this
  omega

/-- A zero-extended byte has no bit above 7 (00_scope R11). -/
theorem setWidth_high (b : Byte) : (b.setWidth 16).extractLsb' 8 8 = 0#8 := by
  apply BitVec.eq_of_toNat_eq
  have := b.isLt
  simp [BitVec.extractLsb'_toNat, Nat.shiftRight_eq_div_pow]
  omega

theorem zext16_high (b : Byte) : (zext16 b).extractLsb' 8 8 = 0#8 := setWidth_high b

end Sys2Proof.Machine
end

