-- ==== Sys2Proof/Laws/PerInstr.lean ====
section
/-! SUPPORT. Statements made once for each constructor of Instr: a command's encoding has one head word and `n_ext` extension
words, and its head word carries its opcode (30_encoding R61, R65). -/

namespace Sys2Proof.Laws.EncodedShape

/-- The encoding of a command is `1 + n_ext` words long and starts with its opcode in bits 31:24. -/
def Statement (i : Instr) : Prop :=
  (encode i).length = 1 + i.nExt ∧ (encodeHead i).extractLsb' 24 8 = i.opcode

theorem init : Statement .init := ⟨rfl, by decide⟩

theorem sel : Statement .sel := ⟨rfl, by decide⟩

theorem rel : Statement .rel := ⟨rfl, by decide⟩

theorem wbyte (b : Byte) : Statement (.wbyte b) := by
  refine ⟨rfl, ?_⟩
  unfold encodeHead
  repeat rw [extract_up _ _ _ _ (by decide)]
  exact extract_all _

theorem wword (w : Half) : Statement (.wword w) := by
  refine ⟨rfl, ?_⟩
  unfold encodeHead
  repeat rw [extract_up _ _ _ _ (by decide)]
  exact extract_all _

theorem widle : Statement .widle := ⟨rfl, by decide⟩

theorem wrep (b : Byte) (n : Word) : Statement (.wrep b n) := by
  refine ⟨rfl, ?_⟩
  unfold encodeHead
  repeat rw [extract_up _ _ _ _ (by decide)]
  exact extract_all _

theorem wbv (b : Byte) (n : Word) : Statement (.wbv b n) := by
  refine ⟨rfl, ?_⟩
  unfold encodeHead
  repeat rw [extract_up _ _ _ _ (by decide)]
  exact extract_all _

theorem wseq (t : BitVec 3) (a n : Word) : Statement (.wseq t a n) := by
  refine ⟨rfl, ?_⟩
  unfold encodeHead
  repeat rw [extract_up _ _ _ _ (by decide)]
  exact extract_all _

theorem wbit (b : Byte) (x : BitVec 3) : Statement (.wbit b x) := by
  refine ⟨rfl, ?_⟩
  unfold encodeHead
  repeat rw [extract_up _ _ _ _ (by decide)]
  exact extract_all _

theorem wpix (a : PixArgs) : Statement (.wpix a) := by
  refine ⟨rfl, ?_⟩
  unfold encodeHead
  repeat rw [extract_up _ _ _ _ (by decide)]
  exact extract_all _

theorem pSpintxe : Statement .pSpintxe := ⟨rfl, by decide⟩

theorem pSpinidle : Statement .pSpinidle := ⟨rfl, by decide⟩

theorem pCfg (w : Bool) (d : Byte) : Statement (.pCfg w d) := by
  refine ⟨rfl, ?_⟩
  unfold encodeHead
  repeat rw [extract_up _ _ _ _ (by decide)]
  exact extract_all _

theorem pWtdr (w : Half) : Statement (.pWtdr w) := by
  refine ⟨rfl, ?_⟩
  unfold encodeHead
  repeat rw [extract_up _ _ _ _ (by decide)]
  exact extract_all _

theorem pEn : Statement .pEn := ⟨rfl, by decide⟩

theorem pDis : Statement .pDis := ⟨rfl, by decide⟩

theorem pUnlock : Statement .pUnlock := ⟨rfl, by decide⟩

theorem pMaster : Statement .pMaster := ⟨rfl, by decide⟩

theorem pPinout (p : Pin) : Statement (.pPinout p) := by
  refine ⟨rfl, ?_⟩
  unfold encodeHead
  repeat rw [extract_up _ _ _ _ (by decide)]
  exact extract_all _

theorem pPinhi (p : Pin) : Statement (.pPinhi p) := by
  refine ⟨rfl, ?_⟩
  unfold encodeHead
  repeat rw [extract_up _ _ _ _ (by decide)]
  exact extract_all _

theorem pPinlo (p : Pin) : Statement (.pPinlo p) := by
  refine ⟨rfl, ?_⟩
  unfold encodeHead
  repeat rw [extract_up _ _ _ _ (by decide)]
  exact extract_all _

end Sys2Proof.Laws.EncodedShape
end

