-- ==== Sys2Proof/Laws/Steps.lean ====
section
/-! SUPPORT. What a step of the block can do, said once: a µop's completion, SEQ's step, and the block's step. An invariant
of the block follows by cases on `step_moves`, `seqStep_effect` and `runUop_done`. Then which finite executions count. -/

namespace Sys2Proof.Machine

open Sys2Proof.Safety

/-- What a µop that completes leaves (40_execution R86-R99). -/
theorem runUop_done {u : Uop} {s t : State} (h : runUop u s = .done t) :
    match u with
    | .spinTxe => s.txe = true ∧ t = s.emitR (.poll true s.idle)
    | .spinIdle => s.idle = true ∧ t = s.emitR (.poll s.txe true)
    | .setCfg w d => s.unlocked = true ∧ s.txe = true ∧ t = { s with w16 := w, div := d }.emitR (.cfg w d)
    | .writeTdr v =>
      s.en = true ∧ s.mstr = true ∧ s.txe = true ∧ (s.w16 = false → v.extractLsb' 8 8 = 0#8) ∧ s.div ≠ 0#8 ∧
        t = { s with txh := some { v := v, w16 := s.w16, div := s.div } }.emitR (.queue v s.w16)
    | .enable => t = ({ s with en := true }.emitR .enable).wireUpdate .mux s.wireClk
    | .disable => s.idle = true ∧ t = ({ s with en := false }.emitR .disable).wireUpdate .mux s.wireClk
    | .unlock => t = { s with unlocked := true }.emitR .unlock
    | .setMaster => s.unlocked = true ∧ t = ({ s with mstr := true }.emitR .master).wireUpdate .mux s.wireClk
    | .pinOut p => s.en = false ∧ t = ((s.setOutput p).emitR (.pinOut p)).wireUpdate .mux s.wireClk
    | .pinHigh p =>
      s.en = false ∧ s.dir p = true ∧ t = ((s.setLat p true).emitR (.pinHigh p)).wireUpdate .manual s.wireClk
    | .pinLow p =>
      s.en = false ∧ s.dir p = true ∧ t = ((s.setLat p false).emitR (.pinLow p)).wireUpdate .manual s.wireClk
    | .select => t = (s.emitR .select).guardCall .asserted
    | .release => t = (s.emitR .release).guardCall .released
    | .postBlock n => t = s.emitR (.postBlock n) := by
  cases u
  case spinTxe => rcases uSpinTXE_spec s with ⟨a, e⟩ | ⟨-, e⟩ <;> simp only [runUop, e] at h <;> cases h; exact ⟨a, rfl⟩
  case spinIdle => rcases uSpinIdle_spec s with ⟨a, e⟩ | ⟨-, e⟩ <;> simp only [runUop, e] at h <;> cases h; exact ⟨a, rfl⟩
  case setCfg w d =>
    rcases uSetCfg_spec w d s with ⟨-, e⟩ | ⟨-, -, e⟩ | ⟨a, b, e⟩ <;> simp only [runUop, e] at h <;> cases h
    exact ⟨a, b, rfl⟩
  case writeTdr v => exact uWriteTDR_done.1 h
  case enable => cases h; rfl
  case disable => rcases uDisable_spec s with ⟨-, e⟩ | ⟨a, e⟩ <;> simp only [runUop, e] at h <;> cases h; exact ⟨a, rfl⟩
  case unlock => cases h; rfl
  case setMaster =>
    rcases uSetMaster_spec s with ⟨-, e⟩ | ⟨a, e⟩ <;> simp only [runUop, e] at h <;> cases h; exact ⟨a, rfl⟩
  case pinOut p => rcases uPinOut_spec p s with ⟨-, e⟩ | ⟨a, e⟩ <;> simp only [runUop, e] at h <;> cases h; exact ⟨a, rfl⟩
  case pinHigh p =>
    rcases uPinHigh_spec p s with ⟨-, e⟩ | ⟨a, b, e⟩ <;> simp only [runUop, e] at h <;> cases h; exact ⟨a, b, rfl⟩
  case pinLow p =>
    rcases uPinLow_spec p s with ⟨-, e⟩ | ⟨a, b, e⟩ <;> simp only [runUop, e] at h <;> cases h; exact ⟨a, b, rfl⟩
  case select => cases h; rfl
  case release => cases h; rfl
  case postBlock n => cases h; rfl

/-- Which µop raises which fault (40_execution R88-R96). -/
theorem runUop_raised {u : Uop} {s : State} {c : FaultCode} (h : runUop u s = .raised c) :
    match u with
    | .setCfg _ _ =>
      (s.unlocked = false ∧ c = .cfgLocked) ∨ (s.unlocked = true ∧ s.txe = false ∧ c = .cfgWhilePending)
    | .writeTdr v =>
      ((s.en = false ∨ s.mstr = false) ∧ c = .writeWhileDisabled) ∨
      (s.en = true ∧ s.mstr = true ∧ s.txe = false ∧ c = .overrun) ∨
      (s.en = true ∧ s.mstr = true ∧ s.txe = true ∧
        ((s.w16 = false ∧ v.extractLsb' 8 8 ≠ 0#8) ∨ s.div = 0#8) ∧ c = .illegalOperand)
    | .disable => s.idle = false ∧ c = .disableWhileBusy
    | .setMaster => s.unlocked = false ∧ c = .cfgLocked
    | .pinOut _ => s.en = true ∧ c = .pinConflict
    | .pinHigh p => (s.en = true ∨ s.dir p = false) ∧ c = .pinConflict
    | .pinLow p => (s.en = true ∨ s.dir p = false) ∧ c = .pinConflict
    | _ => False := by
  cases u
  case writeTdr v =>
    simp only [runUop, uWriteTDR] at h ⊢
    split at h
    · next a => cases h; exact .inl ⟨a, rfl⟩
    · next a =>
      have a' : s.en = true ∧ s.mstr = true := by
        cases h1 : s.en <;> cases h2 : s.mstr <;> simp_all
      split at h
      · next b => cases h; exact .inr (.inl ⟨a'.1, a'.2, b, rfl⟩)
      · next b =>
        have b' : s.txe = true := by simpa using b
        split at h
        · next d => cases h; exact .inr (.inr ⟨a'.1, a'.2, b', .inl d, rfl⟩)
        · split at h
          · next d => cases h; exact .inr (.inr ⟨a'.1, a'.2, b', .inr d, rfl⟩)
          · cases h
  case setCfg w d =>
    rcases uSetCfg_spec w d s with ⟨a, e⟩ | ⟨a, b, e⟩ | ⟨-, -, e⟩ <;> simp only [runUop, e] at h <;> cases h
    · exact .inl ⟨a, rfl⟩
    · exact .inr ⟨a, b, rfl⟩
  case disable => rcases uDisable_spec s with ⟨a, e⟩ | ⟨-, e⟩ <;> simp only [runUop, e] at h <;> cases h; exact ⟨a, rfl⟩
  case setMaster =>
    rcases uSetMaster_spec s with ⟨a, e⟩ | ⟨-, e⟩ <;> simp only [runUop, e] at h <;> cases h; exact ⟨a, rfl⟩
  case pinOut p => rcases uPinOut_spec p s with ⟨a, e⟩ | ⟨-, e⟩ <;> simp only [runUop, e] at h <;> cases h; exact ⟨a, rfl⟩
  case pinHigh p =>
    rcases uPinHigh_spec p s with ⟨a, e⟩ | ⟨-, -, e⟩ <;> simp only [runUop, e] at h <;> cases h; exact ⟨a, rfl⟩
  case pinLow p =>
    rcases uPinLow_spec p s with ⟨a, e⟩ | ⟨-, -, e⟩ <;> simp only [runUop, e] at h <;> cases h; exact ⟨a, rfl⟩
  case spinTxe => rcases uSpinTXE_spec s with ⟨-, e⟩ | ⟨-, e⟩ <;> simp only [runUop, e] at h <;> cases h
  case spinIdle => rcases uSpinIdle_spec s with ⟨-, e⟩ | ⟨-, e⟩ <;> simp only [runUop, e] at h <;> cases h
  all_goals cases h

/-- Everything SEQ's step can do: a fault, the decode step of the command at CP, its retire step, a µop, a failed spin. -/
theorem seqStep_effect {s t : State} (h : seqStep s = .next t) :
    s.fault = none ∧
      ((∃ c, t = s.raiseFault c) ∨
       (∃ i, s.phase = .idle ∧ fetch s = some (.ok i) ∧ commandCheck i s = none ∧ t = s.start i Locals.start) ∨
       ∃ i k l, s.phase = .running i k l ∧
        ((commandProgram i s.mem k l = .retire ∧ t = commandRetire i s) ∨
          ∃ u k' l', commandProgram i s.mem k l = .uop u k' l' ∧
            ((∃ t', runUop u s = .done t' ∧ t = t'.goto i k' l') ∨ runUop u s = .again t))) := by
  obtain ⟨hf, ⟨hp, ⟨e, -, rfl⟩ | ⟨i, hi, he⟩⟩ | ⟨c, k, l, hp, he⟩⟩ := seqStep_next h
  · exact ⟨hf, .inl ⟨_, rfl⟩⟩
  · refine ⟨hf, ?_⟩
    obtain ⟨-, ⟨c, -, rfl⟩ | ⟨hc, rfl⟩⟩ | ⟨c, k, l, hp', -⟩ := exec_next he
    · exact .inl ⟨_, rfl⟩
    · exact .inr (.inl ⟨i, hp, hi, hc, rfl⟩)
    · rw [hp] at hp'; cases hp'
  · refine ⟨hf, ?_⟩
    obtain ⟨hp', -⟩ | ⟨c', k', l', hp', hr⟩ := exec_next he
    · rw [hp] at hp'; cases hp'
    · rw [hp] at hp'
      cases hp'
      obtain hr | ⟨u, k', l', hm, hd | ha | ⟨c', -, rfl⟩⟩ := hr
      · exact .inr (.inr ⟨c, k, l, hp, .inl hr⟩)
      · exact .inr (.inr ⟨c, k, l, hp, .inr ⟨u, k', l', hm, .inl hd⟩⟩)
      · exact .inr (.inr ⟨c, k, l, hp, .inr ⟨u, k', l', hm, .inr ha⟩⟩)
      · exact .inl ⟨_, rfl⟩

/-- A step of the block is an agent's transition, then at most the next scheduling choice (40_execution R77, R78). -/
theorem step_moves {s t : State} (h : step s = .next t) :
    ∃ u, (SeqMoves s u ∨ SheMoves s u) ∧ (t = u ∨ t = u.chooseTurn) := by
  obtain ⟨-, h⟩ | ⟨hr, -, u, hu, rfl⟩ | ⟨hr, -, -, rfl⟩ | ⟨hr, -, rfl⟩ := agentsStep_next h
  · exact ⟨t, .inl h, .inl rfl⟩
  · exact ⟨u, .inl hu, .inr rfl⟩
  · exact ⟨_, .inr ⟨hr, rfl⟩, .inr rfl⟩
  · exact ⟨_, .inr ⟨hr, rfl⟩, .inl rfl⟩

/-! ### Which finite executions count (40_execution R79, R106) -/

/-- A state without a step may end an execution whatever ENGINE_FAIR is. -/
theorem mayEnd_of_halted {s : State} (h : Halted s) : MayEnd s :=
  ⟨fun t m => h t (.inl m), fun _ t m => h t (.inr m)⟩

/-- Where both agents are treated fairly an execution ends only where neither has a step. -/
theorem mayEnd_iff_halted {s : State} (hf : Config.engineFair = true) : MayEnd s ↔ Halted s :=
  ⟨fun h t m => m.elim (h.1 t) (h.2 hf t), mayEnd_of_halted⟩

/-- Where only SEQ is, it may end with words the shift engine never takes: SEQ having no step is enough. -/
theorem mayEnd_iff_seq {s : State} (hf : Config.engineFair = false) : MayEnd s ↔ ∀ t, ¬ SeqMoves s t :=
  ⟨And.left, fun h => ⟨h, by simp [hf]⟩⟩

/-- A claim is refuted by an execution that counts and ends outside the final states (40_execution R106): a word left in TXH
at the end of the stream refutes it where ENGINE_FAIR = 0. -/
theorem not_claim_of_end {s t : State} {post : State → Prop} (h : Run s t) (he : MayEnd t) (hn : ¬ Final t) :
    ¬ Claim s post :=
  fun hc => hn (hc.1 t h he).1

end Sys2Proof.Machine
end

