-- ==== Sys2Proof/Machine/Timing.lean ====
section
/-! DEFINITION. The spec's timing information (70_reset R171). No step reads it: the model has steps, not time (00_scope
R13). -/

namespace Sys2Proof.Machine

/-- The bit rate of a word in Hz, `F_PCLK / div` with the divider the word captured (R171, 10_state R23). -/
noncomputable def bitRate (div : Byte) : ℝ := Config.fPclk.val / div.toNat

/-- The seconds a word of width `w` takes on the wire, `w * div / F_PCLK` (R171). -/
noncomputable def wordTime (w : TxWord) : ℝ := widthOf w.w16 * w.div.toNat / Config.fPclk.val

end Sys2Proof.Machine
end

