-- ==== Sys2Proof/Tests/Slice0.lean ====
section
/-! SUPPORT. The model's own tests: ill-formed commands, words written out from the formats of 30_encoding R62 and R67 (the
V-DEC vectors of 95_test_vectors 2.1 among them), single steps against the vectors, and for each obligation with hypotheses
a concrete state that meets them, clause by clause. -/

namespace Sys2Proof.Tests

open Sys2Proof.Machine Sys2Proof.Safety

/-- An initialised, drained, enabled block between commands. -/
def ready : State where
  stream := []
  mem := []
  cp := 0
  phase := .idle
  initDone := true
  fault := none
  faultCp := 0
  faultWord := 0#32
  en := true
  mstr := true
  w16 := false
  div := 4#8
  unlocked := true
  txh := none
  sr := none
  pdata := false
  dirData := true
  dirClk := true
  latData := false
  latClk := false
  cs := .asserted
  rtrace := []
  wtrace := []
  turn := .seq
  schedIx := 0
  drawIx := 0

/-- A block as reset leaves it, with the clean clock latch of 70_reset R157 and its other draws at 0. -/
def fresh : State :=
  { ready with initDone := false, en := false, mstr := false, unlocked := false, dirData := false, dirClk := false }

/-- The loop state every command starts with. -/
def l0 : Locals := { i := 0, rem := 0, sigma := 0, post := [] }

/-- `s` running `i` at position `k`. -/
def atPos (s : State) (i : Instr) (k : Nat) : State := { s with phase := .running i k l0 }

/-- `s` with the words `ws` at CP. -/
def withWords (s : State) (ws : List Word) : State := { s with stream := ws }

/-- The word 0xAA queued 8 bits wide under divider 4. -/
def aa : TxWord := { v := 0x00AA#16, w16 := false, div := 4#8 }

/-- The operands of `wpix 0x2000, len, scale=0xFF, skip=0, order=RGB, adv=1` (scenarios S3 and S4). -/
def pix (len : Word) (sbf : Bool) : PixArgs where
  tsel := 0#3
  sbf := sbf
  adv := true
  order := .rgb
  skip := 0#8
  scale := 0xFF#8
  addr := 0x2000#32
  len := len
  fbidx := 0#3
  fbyte := 1#8

/-- The window of scenario S3 and S4. -/
def window6 : List Host.Cell :=
  [(0x2000, 0x10#8), (0x2001, 0x20#8), (0x2002, 0x30#8), (0x2003, 0x40#8), (0x2004, 0x50#8), (0x2005, 0x60#8)]

/-! ### Well-formedness -/

/-- A divider of 0 is ill-formed (30_encoding R70). -/
theorem test_wellFormed_cfg_div0 : (Instr.pCfg true 0#8).wellFormed = false := by decide

/-- The extremes of a legal divider. -/
theorem test_wellFormed_cfg : (Instr.pCfg true 1#8).wellFormed = true ∧ (Instr.pCfg false 255#8).wellFormed = true := by
  decide

/-- ORDER 6 and 7 name no colour order (30_encoding R64). -/
theorem test_order_6_7 : orderOfBits 6#3 = none ∧ orderOfBits 7#3 = none := by decide

/-! ### Decoding: each constructor from a word written out from its row's format -/

/-- Format N: the opcode, then 24 zeros. -/
theorem test_decode_n :
    decode [0x01000000#32] = .ok .init ∧ decode [0x02000000#32] = .ok .sel ∧ decode [0x03000000#32] = .ok .rel ∧
    decode [0x06000000#32] = .ok .widle ∧ decode [0x80000000#32] = .ok .pSpintxe ∧
    decode [0x81000000#32] = .ok .pSpinidle ∧ decode [0x84000000#32] = .ok .pEn ∧
    decode [0x85000000#32] = .ok .pDis ∧ decode [0x86000000#32] = .ok .pUnlock ∧
    decode [0x87000000#32] = .ok .pMaster := by
  refine ⟨rfl, rfl, rfl, rfl, rfl, rfl, rfl, rfl, rfl, rfl⟩

/-- Formats V8 and V16: IMM8 in 7:0, IMM16 in 15:0. -/
theorem test_decode_imm :
    decode [0x040000A5#32] = .ok (.wbyte 0xA5#8) ∧ decode [0x0500BEEF#32] = .ok (.wword 0xBEEF#16) ∧
    decode [0x83008001#32] = .ok (.pWtdr 0x8001#16) := by
  refine ⟨rfl, rfl, rfl⟩

/-- Format RPT: IMM8 in 7:0, COUNT the next word. -/
theorem test_decode_rpt :
    decode [0x0700005A#32, 0x12345678#32] = .ok (.wrep 0x5A#8 0x12345678#32) ∧
    decode [0x0800003C#32, 0x80000001#32] = .ok (.wbv 0x3C#8 0x80000001#32) := by
  refine ⟨rfl, rfl⟩

/-- Format SEQ: TSEL 5 is 101 in 23:21; ADDR, then LEN. V-DEC-14 has TSEL 7. -/
theorem test_decode_seq :
    decode [0x09A00000#32, 0x80000001#32, 2#32] = .ok (.wseq 5#3 0x80000001#32 2#32) ∧
    decode [0x09E00000#32, 0x100#32, 0#32] = .ok (.wseq 7#3 0x100#32 0#32) := by
  refine ⟨rfl, rfl⟩

/-- Format BIT: BIDX in 10:8, IMM8 in 7:0. V-DEC-20 is the second. -/
theorem test_decode_bit :
    decode [0x0A000381#32] = .ok (.wbit 0x81#8 3#3) ∧ decode [0x0A0007FF#32] = .ok (.wbit 0xFF#8 7#3) := by
  refine ⟨rfl, rfl⟩

/-- Format PIX: TSEL 2 in 23:21, SBF 0, ADV 1, ORDER 5 in 18:16, SKIP 0x12, SCALE 0x34; EXT3 with FBIDX 6, FBYTE 0xC3. -/
theorem test_decode_pix :
    decode [0x0B4D1234#32, 0x10#32, 0x15#32, 0x000006C3#32] =
      .ok (.wpix { tsel := 2#3, sbf := false, adv := true, order := .bgr, skip := 0x12#8, scale := 0x34#8, addr := 0x10#32,
                   len := 0x15#32, fbidx := 6#3, fbyte := 0xC3#8 }) := rfl

/-- Formats CFG and PIN: W16 in bit 8, DIV in 7:0; PSEL in bit 0. V-DEC-10 is the first. -/
theorem test_decode_cfg_pin :
    decode [0x820001FF#32] = .ok (.pCfg true 255#8) ∧ decode [0x82000008#32] = .ok (.pCfg false 8#8) ∧
    decode [0x88000000#32] = .ok (.pPinout .data) ∧ decode [0x89000001#32] = .ok (.pPinhi .clk) ∧
    decode [0x8A000001#32] = .ok (.pPinlo .clk) := by
  refine ⟨rfl, rfl, rfl, rfl, rfl⟩

/-- V-DEC-1 to V-DEC-4: opcodes outside the table. -/
theorem test_decode_illegalOpcode :
    decode [0x00000000#32] = .error .illegalOpcode ∧ decode [0x0C000000#32] = .error .illegalOpcode ∧
    decode [0x8B000000#32] = .error .illegalOpcode ∧ decode [0xFF000000#32] = .error .illegalOpcode := by
  refine ⟨rfl, rfl, rfl, rfl⟩

/-- V-DEC-5, 6, 7, 9, 11, 12, 13: a reserved-zero bit of each format is 1. -/
theorem test_decode_reserved :
    decode [0x06000001#32] = .error .reservedBits ∧ decode [0x04000100#32] = .error .reservedBits ∧
    decode [0x050F1234#32] = .error .reservedBits ∧ decode [0x82000200#32] = .error .reservedBits ∧
    decode [0x88000002#32] = .error .reservedBits ∧ decode [0x0A000800#32] = .error .reservedBits ∧
    decode [0x09100000#32, 0#32, 0#32] = .error .reservedBits := by
  refine ⟨rfl, rfl, rfl, rfl, rfl, rfl, rfl⟩

/-- V-DEC-8, 15, 16 and V-PRI-3: illegal values, before truncation. -/
theorem test_decode_illegalValue :
    decode [0x82000100#32] = .error .illegalValue ∧ decode [0x0B0600FF#32, 0#32, 3#32, 0#32] = .error .illegalValue ∧
    decode [0x0B0700FF#32, 0#32, 3#32, 0#32] = .error .illegalValue ∧ decode [0x0B0600FF#32] = .error .illegalValue := by
  refine ⟨rfl, rfl, rfl, rfl⟩

/-- V-DEC-17, 18, 19: a reserved bit of EXT3, and streams that end inside a command. -/
theorem test_decode_extensions :
    decode [0x0B0800FF#32, 0#32, 3#32, 0x00000800#32] = .error .reservedExt3 ∧
    decode [0x07000000#32] = .error .truncated ∧ decode [0x0B0800FF#32, 0x2000#32, 3#32] = .error .truncated := by
  refine ⟨rfl, rfl, rfl⟩

/-! ### Single steps -/

/-- V-DEC-5: the step at an illegal word records `Fault(1)` with the command's index and head word. -/
theorem test_step_illegal :
    step (withWords ready [0x06000001#32]) =
      .next { withWords ready [0x06000001#32] with
        fault := some .illegalCommand, faultCp := 0, faultWord := 0x06000001#32, rtrace := [.fault .illegalCommand] } := rfl

/-- V-PRI-1: a reserved bit is found before NOT_INITIALISED. -/
theorem test_step_priority :
    ∃ t, step (withWords fresh [0x04000100#32]) = .next t ∧ t.fault = some .illegalCommand := ⟨_, rfl, rfl⟩

/-- V-PRI-5 and V-INI-4: NOT_INITIALISED before ADDRESS_RANGE, and for `sel`. -/
theorem test_step_notInitialised :
    (∃ t, exec (.wseq 0#3 0xFFFFFFFF#32 2#32) fresh = .next t ∧ t.fault = some .notInitialised) ∧
    ∃ t, exec .sel fresh = .next t ∧ t.fault = some .notInitialised := ⟨⟨_, rfl, rfl⟩, ⟨_, rfl, rfl⟩⟩

/-- V-SEQ-4, V-SEQ-5 and V-PRI-6: `ADDR + LEN = 2^32` is legal, more is ADDRESS_RANGE, before PARTIAL_PIXEL. -/
theorem test_step_range :
    exec (.wseq 0#3 0xFFFFFFFF#32 1#32) ready = .next (atPos ready (.wseq 0#3 0xFFFFFFFF#32 1#32) 0) ∧
    (∃ t, exec (.wseq 0#3 0xFFFFFFFF#32 2#32) ready = .next t ∧ t.fault = some .addressRange) ∧
    ∃ t, exec (.wpix { pix 5#32 false with addr := 0xFFFFFFFF#32 }) ready = .next t ∧ t.fault = some .addressRange :=
  ⟨rfl, ⟨_, rfl, rfl⟩, ⟨_, rfl, rfl⟩⟩

/-- V-PRI-7 and V-PIX-8: PARTIAL_PIXEL for 5 bytes of step 3 and 6 bytes of step 4. -/
theorem test_step_partial :
    (∃ t, exec (.wpix { pix 5#32 false with addr := 0#32 }) ready = .next t ∧ t.fault = some .partialPixel) ∧
    ∃ t, exec (.wpix { pix 6#32 false with skip := 1#8 }) ready = .next t ∧ t.fault = some .partialPixel :=
  ⟨⟨_, rfl, rfl⟩, ⟨_, rfl, rfl⟩⟩

/-- V-P-1, V-P-3, V-P-4, V-P-5: the primitives of a fresh block that fault. -/
theorem test_step_fresh_faults :
    (∃ t, exec (.pCfg false 4#8) (atPos fresh (.pCfg false 4#8) 0) = .next t ∧ t.fault = some .cfgLocked) ∧
    (∃ t, exec .pMaster (atPos fresh .pMaster 0) = .next t ∧ t.fault = some .cfgLocked) ∧
    (∃ t, exec (.pWtdr 0xAA#16) (atPos fresh (.pWtdr 0xAA#16) 0) = .next t ∧ t.fault = some .writeWhileDisabled) ∧
    ∃ t, exec (.pPinhi .data) (atPos fresh (.pPinhi .data) 0) = .next t ∧ t.fault = some .pinConflict :=
  ⟨⟨_, rfl, rfl⟩, ⟨_, rfl, rfl⟩, ⟨_, rfl, rfl⟩, ⟨_, rfl, rfl⟩⟩

/-- V-P-8 and V-P-9: a high byte is ILLEGAL_OPERAND at width 8 and is queued at width 16. -/
theorem test_step_wtdr_width :
    (∃ t, exec (.pWtdr 0x100#16) (atPos ready (.pWtdr 0x100#16) 0) = .next t ∧ t.fault = some .illegalOperand) ∧
    ∃ t, exec (.pWtdr 0x100#16) (atPos { ready with w16 := true, div := 2#8 } (.pWtdr 0x100#16) 0) = .next t ∧
      t.txh = some { v := 0x100#16, w16 := true, div := 2#8 } ∧ t.rtrace = [.queue 0x100#16 true] :=
  ⟨⟨_, rfl, rfl⟩, ⟨_, rfl, rfl, rfl⟩⟩

/-- V-P-11 and V-P-18: with the word still in TXH a second write is OVERRUN, a p.cfg is CFG_WHILE_PENDING. -/
theorem test_step_pending :
    (∃ t, exec (.pWtdr 0xBB#16) (atPos { ready with txh := some aa } (.pWtdr 0xBB#16) 0) = .next t ∧
      t.fault = some .overrun) ∧
    ∃ t, exec (.pCfg false 4#8) (atPos { ready with txh := some aa } (.pCfg false 4#8) 0) = .next t ∧
      t.fault = some .cfgWhilePending :=
  ⟨⟨_, rfl, rfl⟩, ⟨_, rfl, rfl⟩⟩

/-- V-P-16: with the clock latch at 1, making the clock pin an output is a Glitch; V-PRI-9: a fresh `p.dis` records nothing
on the wire. -/
theorem test_step_glitch :
    (∃ t, exec (.pPinout .clk) (atPos { fresh with latClk := true } (.pPinout .clk) 0) = .next t ∧
      t.wtrace = [.glitch .asserted]) ∧
    ∃ t, exec .pDis (atPos fresh .pDis 0) = .next t ∧ t.wtrace = [] ∧ t.rtrace = [.disable] :=
  ⟨⟨_, rfl, rfl⟩, ⟨_, rfl, rfl, rfl⟩⟩

/-- PR4, indices 3 and 4: raising the clock latch is a manual edge of the data latch, lowering it records nothing. -/
theorem test_step_pins :
    (∃ t, exec (.pPinhi .clk) (atPos { ready with en := false, latData := true } (.pPinhi .clk) 0) = .next t ∧
      t.wtrace = [.edge true .asserted .manual none] ∧ t.latClk = true) ∧
    ∃ t, exec (.pPinlo .clk) (atPos { ready with en := false, latClk := true } (.pPinlo .clk) 0) = .next t ∧
      t.wtrace = [] ∧ t.latClk = false :=
  ⟨⟨_, rfl, rfl, rfl⟩, ⟨_, rfl, rfl, rfl⟩⟩

/-- V-BIT-4 and V-BIT-5: bit 3 of 0x08 is 1, bit 3 of 0xF7 is 0. -/
theorem test_step_bit :
    (∃ t, exec (.wbit 0x08#8 3#3) (atPos { ready with en := false } (.wbit 0x08#8 3#3) 2) = .next t ∧
      t.rtrace = [.pinHigh .data] ∧ t.latData = true) ∧
    ∃ t, exec (.wbit 0xF7#8 3#3) (atPos { ready with en := false } (.wbit 0xF7#8 3#3) 2) = .next t ∧
      t.rtrace = [.pinLow .data] ∧ t.latData = false :=
  ⟨⟨_, rfl, rfl, rfl⟩, ⟨_, rfl, rfl, rfl⟩⟩

/-- V-INI-5: an `init` with the peripheral already enabled is PIN_CONFLICT at its first µop. -/
theorem test_step_init_conflict :
    ∃ t, exec .init (atPos { fresh with en := true } .init 0) = .next t ∧ t.fault = some .pinConflict ∧
      t.initDone = false := ⟨_, rfl, rfl, rfl⟩

/-- V-PRI-8: a second `init`, at index 1, is REINIT with FAULT_CP 1. -/
theorem test_step_reinit :
    ∃ t, step { ready with stream := [0x01000000#32, 0x01000000#32], cp := 1 } = .next t ∧ t.fault = some .reinit ∧
      t.faultCp = 1 ∧ t.faultWord = 0x01000000#32 := ⟨_, rfl, rfl, rfl, rfl⟩

/-- V-SEQ-6: an address that is not admitted stops SEQ at the read, after the select. -/
theorem test_step_blocked :
    exec (.wseq 0#3 0x5000#32 1#32) (atPos ready (.wseq 0#3 0x5000#32 1#32) 1) = .fault .memReadBlocked := rfl

/-- V-SEQ-2: the second byte of the window `[0x01, 0x80]` is queued as 0x0080 by the identity transform. -/
theorem test_step_seq :
    ∃ t, exec (.wseq 0#3 0x1000#32 2#32)
        { atPos { ready with mem := [(0x1000, 0x01#8), (0x1001, 0x80#8)] } (.wseq 0#3 0x1000#32 2#32) 3 with
          phase := .running (.wseq 0#3 0x1000#32 2#32) 3 { l0 with i := 1 } } = .next t ∧
      t.rtrace = [.queue 0x0080#16 false] := ⟨_, rfl, rfl⟩

/-- V-WBV-2 and V-REP-1: a count of 0 goes straight to the release, and straight to the retire. -/
theorem test_step_count0 :
    (∃ t, exec (.wbv 0#8 0#32) (atPos ready (.wbv 0#8 0#32) 1) = .next t ∧
      t.phase = .running (.wbv 0#8 0#32) 5 l0) ∧
    exec (.wrep 0x55#8 0#32) (atPos ready (.wrep 0x55#8 0#32) 0) = .next { ready with cp := 2 } := by
  refine ⟨⟨_, rfl, ?_⟩, rfl⟩
  cases h : Config.guardPresent <;> simp [State.guardCall, State.goto, State.emitR, h, atPos, l0]

/-- V-PIX-4: an empty stream goes from opening its source to PostBlock(0). -/
theorem test_step_pix_empty :
    ∃ t, exec (.wpix (pix 0#32 false)) (atPos ready (.wpix (pix 0#32 false)) 1) = .next t ∧
      t.rtrace = [.postBlock 0] := ⟨_, rfl, rfl⟩

/-- S3 and S4: a stream without framing bits polls TXE, one with them polls IDLE, and a busy shift register holds only the
second. -/
theorem test_step_pix_spin :
    (∃ t, exec (.wpix (pix 3#32 false))
        (atPos { ready with mem := window6, sr := some { v := 0#16, w16 := false, div := 4#8, k := 1 } }
          (.wpix (pix 3#32 false)) 1) = .next t ∧ t.phase ≠ .running (.wpix (pix 3#32 false)) 1 l0) ∧
    ∃ t, exec (.wpix (pix 3#32 true))
        (atPos { ready with mem := window6, sr := some { v := 0#16, w16 := false, div := 4#8, k := 1 } }
          (.wpix (pix 3#32 true)) 1) = .next t ∧ t.phase = .running (.wpix (pix 3#32 true)) 1 l0 ∧
      t.rtrace = [.poll true false] := by
  refine ⟨⟨_, rfl, ?_⟩, ⟨_, rfl, rfl, rfl⟩⟩
  simp [State.goto]

/-- 20_memory R44: the first bit of 0xAA on the wire is bit 7, under the captured divider. -/
theorem test_step_shift :
    ∃ t, step { ready with sr := some { v := 0x00AA#16, w16 := false, div := 4#8, k := 8 } } = .next t ∧
      t.wtrace = [.edge true .asserted .hw (some 4#8)] ∧ t.pdata = true ∧
      t.sr = some { v := 0x00AA#16, w16 := false, div := 4#8, k := 7 } := ⟨_, rfl, rfl, rfl, rfl⟩

/-- 40_execution R105: a drained block at the end of its stream has no step; a faulted one neither. -/
theorem test_step_ends :
    step ready = .fault .runFinal ∧ step { ready with fault := some .overrun } = .fault .runFaulted := ⟨rfl, rfl⟩

/-- A command word placed after reset is the first one SEQ decodes: `p.unlock`. -/
theorem test_withFetchWord :
    ∃ t, step (State.reset.withFetchWord 32 0x86000000) = .next t ∧
      t.phase = .running .pUnlock 0 l0 := ⟨_, rfl, rfl⟩

/-- R171: a word of `w` bits takes `w` bit periods of the divider it captured. -/
theorem test_timing (w : TxWord) (h : w.div ≠ 0#8) : wordTime w * bitRate w.div = widthOf w.w16 := by
  have hd : (w.div.toNat : ℝ) ≠ 0 := Nat.cast_ne_zero.2 fun hz => h (BitVec.eq_of_toNat_eq hz)
  have hf : Config.fPclk.val ≠ 0 := Config.fPclk.property.ne'
  simp only [wordTime, bitRate]
  field_simp

/-! ### Witnesses: the hypotheses of each obligation are met -/

theorem test_witness_DecodeReadsBackEveryEncoding :
    (Instr.wpix (pix 6#32 true)).wellFormed = true ∧ (Instr.pCfg true 255#8).wellFormed = true := by decide

theorem test_witness_DecodedWordsAreTheEncoding :
    decode [0x82000101#32, 7#32] = .ok (.pCfg true 1#8) := rfl

/-- A decoded command and a running one, with SHE idle and with SHE ready. -/
theorem test_witness_StepRunsTheDecodedCommand :
    (∃ s : State, s.fault = none ∧ s.phase = .idle ∧ s.cp < s.stream.length ∧ decode (s.stream.drop s.cp) = .ok .sel ∧
      s.sheReady = false) ∧
    ∃ s t : State, s.fault = none ∧ s.phase = .running .pSpintxe 0 l0 ∧ s.sheReady = true ∧ s.turn = .seq ∧
      exec .pSpintxe s = .next t :=
  ⟨⟨withWords ready [0x02000000#32], rfl, rfl, by decide, rfl, rfl⟩,
   ⟨atPos { ready with txh := some aa } .pSpintxe 0, _, rfl, rfl, rfl, rfl, rfl⟩⟩

theorem test_witness_StepIsOneAgentsTransition : ∃ t, step (withWords ready [0x86000000#32]) = .next t := ⟨_, rfl⟩

/-- Both agents have a transition in one state. -/
theorem test_witness_EveryInterleavingIsAStep :
    ∃ u v, SeqMoves { withWords ready [0x86000000#32] with txh := some aa } u ∧
      SheMoves { withWords ready [0x86000000#32] with txh := some aa } v := ⟨_, _, rfl, rfl, rfl⟩

/-- A head word that fails its checks, and a PIX command with a reserved bit in EXT3 (V-DEC-13, V-DEC-17). -/
theorem test_witness_IllegalWordsFaultAtDecode :
    (∃ s : State, s.fault = none ∧ s.phase = .idle ∧ s.stream.drop s.cp = [0x09100000#32, 0#32, 0#32] ∧
      ∃ e, decodeHead 0x09100000#32 = .error e) ∧
    ∃ s : State, s.fault = none ∧ s.phase = .idle ∧ s.stream.drop s.cp = [0x0B0800FF#32, 0#32, 3#32, 0x800#32] ∧
      decodeHead 0x0B0800FF#32 = .ok .pix ∧ 3 ≤ [0#32, 3#32, 0x800#32].length ∧
      ([0#32, 3#32, 0x800#32].getD 2 0#32).extractLsb' 11 21 ≠ 0#21 :=
  ⟨⟨withWords ready [0x09100000#32, 0#32, 0#32], rfl, rfl, rfl, ⟨_, rfl⟩⟩,
   ⟨withWords ready [0x0B0800FF#32, 0#32, 3#32, 0x800#32], rfl, rfl, rfl, rfl, by decide, by decide⟩⟩

/-- V-DEC-19: one extension word short. -/
theorem test_witness_TruncatedCommandFaultsAtDecode :
    ∃ s : State, s.fault = none ∧ s.phase = .idle ∧ (Instr.wpix (pix 3#32 false)).wellFormed = true ∧
      s.stream[s.cp]? = some (encodeHead (.wpix (pix 3#32 false))) ∧
      s.stream.length ≤ s.cp + (Instr.wpix (pix 3#32 false)).nExt :=
  ⟨withWords ready [0x0B0800FF#32, 0x2000#32, 3#32], rfl, rfl, rfl, rfl, by decide⟩

theorem test_witness_InitialisationIsCheckedAtDecode :
    (Instr.isSClass (.wbyte 1#8) = true ∧ Instr.wbyte 1#8 ≠ .init ∧ fresh.phase = .idle ∧ fresh.initDone = false) ∧
    ready.phase = .idle ∧ ready.initDone = true := by decide

/-- A primitive on a fresh block, `init` on a fresh block, `wseq` and `wpix` on a ready one, at the last legal window. -/
theorem test_witness_DecodeStepStartsTheCommand :
    (fresh.phase = .idle ∧ Instr.pEn.isSClass = false ∧ fresh.initDone = false) ∧
    (ready.phase = .idle ∧ ready.initDone = true ∧ (Instr.wseq 0#3 0xFFFFFFFF#32 1#32).isSClass = true ∧
      (0xFFFFFFFF#32).toNat + (1#32).toNat ≤ 2 ^ 32) ∧
    (pix 6#32 true).addr.toNat + (pix 6#32 true).len.toNat ≤ 2 ^ 32 ∧
    (pix 6#32 true).len.toNat % (3 + (pix 6#32 true).skip.toNat) = 0 := by decide

/-- One byte past the end of memory (V-SEQ-5), a window past it for `wpix` (V-PRI-6), and 5 bytes of step 3 (V-PRI-7). -/
theorem test_witness_WindowAndPixelChecksFaultAtDecode :
    ready.phase = .idle ∧ ready.initDone = true ∧ 2 ^ 32 < (0xFFFFFFFF#32).toNat + (2#32).toNat ∧
    2 ^ 32 < { pix 5#32 false with addr := 0xFFFFFFFF#32 }.addr.toNat + (pix 5#32 false).len.toNat ∧
    (pix 5#32 false).addr.toNat + (pix 5#32 false).len.toNat ≤ 2 ^ 32 ∧
    (pix 5#32 false).len.toNat % (3 + (pix 5#32 false).skip.toNat) ≠ 0 := by decide

/-- The first position past the end for a P-class command and for `wpix`; `wrep` at both its loop tests. -/
theorem test_witness_RetireAdvancesTheCommandPointer :
    ((atPos ready .pEn 1).phase = .running .pEn 1 l0 ∧ lastPos .pEn ≤ 1 ∧ ∀ b n, Instr.pEn ≠ .wrep b n) ∧
    ((atPos ready .init 7).phase = .running .init 7 l0 ∧ lastPos .init ≤ 7) ∧
    ((atPos ready (.wrep 1#8 0#32) 0).phase = .running (.wrep 1#8 0#32) 0 l0 ∧ (0#32).toNat ≤ l0.i) ∧
    (atPos ready (.wrep 1#8 1#32) 3).phase = .running (.wrep 1#8 1#32) 3 l0 ∧ (1#32).toNat ≤ l0.i + 1 := by
  refine ⟨⟨rfl, by decide, fun b n => by simp⟩, ⟨rfl, by decide⟩, ⟨rfl, by decide⟩, rfl, by decide⟩

theorem test_witness_FaultsArePrecise :
    ∃ t, (atPos fresh .pMaster 0).fault = none ∧ exec .pMaster (atPos fresh .pMaster 0) = .next t ∧
      t.fault = some .cfgLocked := ⟨_, rfl, rfl, rfl⟩

theorem test_witness_FaultIsSticky :
    ∃ t, ({ ready with fault := some .overrun, txh := some aa } : State).fault ≠ none ∧
      step { ready with fault := some .overrun, txh := some aa } = .next t := ⟨_, by decide, rfl⟩

/-- Each spin with its flag at 1 and at 0. -/
theorem test_witness_SpinsPollOncePerStep :
    ((atPos ready .pSpintxe 0).phase = .running .pSpintxe 0 l0 ∧ ready.txe = true ∧ ready.idle = true) ∧
    ((atPos ready .pSpinidle 0).phase = .running .pSpinidle 0 l0 ∧ (atPos ready .pSpinidle 0).idle = true) ∧
    ((atPos ready .widle 0).phase = .running .widle 0 l0 ∧ (atPos ready .widle 0).idle = true) ∧
    ({ ready with txh := some aa } : State).txe = false ∧ ({ ready with txh := some aa } : State).idle = false := by
  decide

/-- Open and drained, locked, and open with a word pending. -/
theorem test_witness_CfgSetsWidthAndDivider :
    (atPos ready (.pCfg true 255#8) 0).phase = .running (.pCfg true 255#8) 0 l0 ∧
    (ready.unlocked = true ∧ ready.txh = none) ∧ fresh.unlocked = false ∧
    ({ ready with txh := some aa } : State).unlocked = true ∧ ({ ready with txh := some aa } : State).txh ≠ none := by
  decide

/-- The completion, at the largest 8-bit value; disabled; TXH full; a high byte at width 8; a divider of 0. -/
theorem test_witness_WtdrFillsTheHoldingRegister :
    (atPos ready (.pWtdr 0xFF#16) 0).phase = .running (.pWtdr 0xFF#16) 0 l0 ∧
    CanQueue (atPos ready (.pWtdr 0xFF#16) 0) 0xFF#16 ∧ fresh.en = false ∧
    ({ ready with txh := some aa } : State).txh ≠ none ∧
    (ready.txh = none ∧ ready.w16 = false ∧ (0x100#16).extractLsb' 8 8 ≠ 0#8) ∧
    ({ ready with div := 0#8 } : State).div = 0#8 := by
  refine ⟨rfl, ⟨rfl, rfl, rfl, fun _ => by decide, by decide⟩, rfl, by decide, by decide, rfl⟩

theorem test_witness_EnHandsTheWiresToThePeripheral :
    (atPos fresh .pEn 0).phase = .running .pEn 0 l0 := rfl

/-- Drained, and with a word outstanding. -/
theorem test_witness_DisHandsTheWiresToTheLatches :
    (atPos ready .pDis 0).phase = .running .pDis 0 l0 ∧ (atPos ready .pDis 0).idle = true ∧
    (atPos { ready with txh := some aa } .pDis 0).idle = false := by decide

theorem test_witness_UnlockAndMasterSetTheirBits :
    (atPos fresh .pUnlock 0).phase = .running .pUnlock 0 l0 ∧
    (atPos fresh .pMaster 0).phase = .running .pMaster 0 l0 ∧ (atPos fresh .pMaster 0).unlocked = false ∧
    (atPos ready .pMaster 0).unlocked = true := by decide

theorem test_witness_PinoutMakesThePinAnOutput :
    (atPos fresh (.pPinout .clk) 0).phase = .running (.pPinout .clk) 0 l0 ∧ fresh.en = false ∧ ready.en = true := by
  decide

/-- Each pin driven, and each reason for the conflict. -/
theorem test_witness_PinhiDrivesThePinHigh :
    (atPos { ready with en := false } (.pPinhi .clk) 0).phase = .running (.pPinhi .clk) 0 l0 ∧
    ({ ready with en := false } : State).dirClk = true ∧ ({ ready with en := false } : State).dirData = true ∧
    ready.en = true ∧ fresh.dirData = false ∧ fresh.dirClk = false := by decide

theorem test_witness_PinloDrivesThePinLow :
    (atPos { ready with en := false } (.pPinlo .clk) 0).phase = .running (.pPinlo .clk) 0 l0 ∧
    ({ ready with en := false } : State).dirClk = true ∧ ({ ready with en := false } : State).dirData = true ∧
    ready.en = true ∧ fresh.dirData = false ∧ fresh.dirClk = false := by decide

theorem test_witness_InitConfiguresTheBlock :
    fresh.phase = .idle ∧ fresh.initDone = false ∧ fresh.en = false ∧ fresh.txh = none := by decide

/-- Each µop's premises at its position, and each trap's. -/
theorem test_witness_InitMicroOpsComplete :
    ((atPos fresh .init 0).phase = .running .init 0 l0 ∧ (atPos fresh .init 1).phase = .running .init 1 l0 ∧
      (atPos fresh .init 2).phase = .running .init 2 l0 ∧ (atPos fresh .init 3).phase = .running .init 3 l0 ∧
      fresh.en = false) ∧
    (atPos ready .init 4).phase = .running .init 4 l0 ∧ ready.unlocked = true ∧
    ((atPos ready .init 5).phase = .running .init 5 l0 ∧ CanConfig (atPos ready .init 5)) ∧
    (atPos ready .init 6).phase = .running .init 6 l0 ∧ ready.mstr = true ∧
    (atPos ready .init 7).phase = .running .init 7 l0 ∧
    ((atPos ready .init 0).phase = .running .init 0 l0 ∧ (atPos ready .init 1).phase = .running .init 1 l0 ∧
      ready.en = true) ∧
    ((atPos fresh .init 4).phase = .running .init 4 l0 ∧ (atPos fresh .init 5).phase = .running .init 5 l0 ∧
      fresh.unlocked = false) ∧
    (atPos { ready with txh := some aa } .init 5).phase = .running .init 5 l0 ∧
    ({ ready with txh := some aa } : State).txh ≠ none :=
  ⟨⟨rfl, rfl, rfl, rfl, rfl⟩, rfl, rfl, ⟨rfl, rfl, rfl⟩, rfl, rfl, rfl, ⟨rfl, rfl, rfl⟩, ⟨rfl, rfl, rfl⟩, rfl, by decide⟩

theorem test_witness_SelAndRelMoveChipSelect :
    (atPos ready .sel 0).phase = .running .sel 0 l0 ∧ (atPos ready .rel 0).phase = .running .rel 0 l0 := by decide

/-- A zero-extended byte fits an 8-bit write on a ready block; any value fits a 16-bit one. -/
theorem canQueue_byte (b : Byte) (i : Instr) (k : Nat) : CanQueue (atPos ready i k) (b.setWidth 16) :=
  ⟨rfl, rfl, rfl, fun _ => setWidth_high b, fun h => absurd (show (4#8 : Byte) = 0#8 from h) (by decide)⟩

/-- `ready` with the peripheral disabled: the write that follows is WRITE_WHILE_DISABLED. -/
def disabled : State := { ready with en := false }

/-- `ready` with a word in TXH and one in SR: both spins fail. -/
def busy : State := { ready with txh := some aa, sr := some { v := 1#16, w16 := false, div := 4#8, k := 1 } }

/-- The premise of every WRITE_WHILE_DISABLED clause and of every failed poll, at any command's position. -/
theorem test_witness_disabled_and_busy (i : Instr) (k : Nat) :
    ((atPos disabled i k).phase = .running i k l0 ∧ (atPos disabled i k).en = false) ∧
    (atPos busy i k).phase = .running i k l0 ∧ (atPos busy i k).txe = false ∧ (atPos busy i k).idle = false :=
  ⟨⟨rfl, rfl⟩, rfl, rfl, rfl⟩

theorem test_witness_WbyteAndWwordQueueTheirWord :
    ((atPos ready (.wbyte 0xAA#8) 0).phase = .running (.wbyte 0xAA#8) 0 l0 ∧ (atPos ready (.wbyte 0xAA#8) 0).txe = true ∧
      (atPos { ready with txh := some aa } (.wbyte 0xAA#8) 0).txe = false ∧
      CanConfig (atPos ready (.wbyte 0xAA#8) 1) ∧
      CanQueue (atPos ready (.wbyte 0xAA#8) 2) ((0xAA#8).setWidth 16)) ∧
    (atPos ready (.wword 0x1234#16) 0).txe = true ∧ CanConfig (atPos ready (.wword 0x1234#16) 1) ∧
    CanQueue { atPos ready (.wword 0x1234#16) 2 with w16 := true } 0x1234#16 ∧
    (atPos disabled (.wbyte 0xAA#8) 2).en = false ∧ (atPos disabled (.wword 0x1234#16) 2).en = false ∧
    (atPos busy (.wword 0x1234#16) 0).txe = false :=
  ⟨⟨rfl, rfl, rfl, ⟨rfl, rfl⟩, canQueue_byte _ _ _⟩, rfl, ⟨rfl, rfl⟩, ⟨rfl, rfl, rfl, fun h => by simp at h, by decide⟩,
    rfl, rfl, rfl⟩

theorem test_witness_WriteRetiresWithTheWordInTxh :
    ready.phase = .idle ∧ ready.initDone = true ∧ ready.unlocked = true ∧ ready.en = true ∧ ready.mstr = true ∧
    ready.txh = none := by decide

/-- The first and the last byte of a count of 2. -/
theorem test_witness_WrepQueuesByteByByte :
    ((atPos ready (.wrep 1#8 2#32) 0).phase = .running (.wrep 1#8 2#32) 0 l0 ∧ l0.i < (2#32).toNat ∧
      (atPos ready (.wrep 1#8 2#32) 0).txe = true) ∧
    CanConfig (atPos ready (.wrep 1#8 2#32) 1) ∧ CanQueue (atPos ready (.wrep 1#8 2#32) 2) ((1#8).setWidth 16) ∧
    ((atPos ready (.wrep 1#8 2#32) 3).phase = .running (.wrep 1#8 2#32) 3 l0 ∧ l0.i + 1 < (2#32).toNat) ∧
    ((atPos busy (.wrep 1#8 2#32) 0).phase = .running (.wrep 1#8 2#32) 0 l0 ∧
      (atPos busy (.wrep 1#8 2#32) 3).phase = .running (.wrep 1#8 2#32) 3 l0 ∧ (atPos busy (.wrep 1#8 2#32) 0).txe = false) ∧
    (atPos disabled (.wrep 1#8 2#32) 2).phase = .running (.wrep 1#8 2#32) 2 l0 ∧
    (atPos disabled (.wrep 1#8 2#32) 2).en = false :=
  ⟨⟨rfl, by decide, rfl⟩, ⟨rfl, rfl⟩, canQueue_byte _ _ _, ⟨rfl, by decide⟩, ⟨rfl, rfl, rfl⟩, rfl, rfl⟩

/-- The loop going on and ending, at both its tests. -/
theorem test_witness_WbvReleasesWithoutDraining :
    ((atPos ready (.wbv 1#8 2#32) 0).phase = .running (.wbv 1#8 2#32) 0 l0 ∧ l0.i < (2#32).toNat ∧
      (atPos ready (.wbv 1#8 2#32) 1).txe = true ∧ CanConfig (atPos ready (.wbv 1#8 2#32) 2)) ∧
    CanQueue (atPos ready (.wbv 1#8 2#32) 3) ((1#8).setWidth 16) ∧ l0.i + 1 < (2#32).toNat ∧
    (0#32).toNat ≤ l0.i ∧ (1#32).toNat ≤ l0.i + 1 ∧
    ((atPos busy (.wbv 1#8 2#32) 1).phase = .running (.wbv 1#8 2#32) 1 l0 ∧
      (atPos busy (.wbv 1#8 2#32) 4).phase = .running (.wbv 1#8 2#32) 4 l0 ∧ (atPos busy (.wbv 1#8 2#32) 1).txe = false) ∧
    (atPos disabled (.wbv 1#8 2#32) 3).phase = .running (.wbv 1#8 2#32) 3 l0 ∧
    (atPos disabled (.wbv 1#8 2#32) 3).en = false :=
  ⟨⟨rfl, by decide, rfl, rfl, rfl⟩, canQueue_byte _ _ _, by decide, by decide, by decide, ⟨rfl, rfl, rfl⟩, rfl, rfl⟩

theorem test_witness_WseqQueuesAdjustedWindowBytes :
    ((atPos ready (.wseq 1#3 0x2000#32 2#32) 1).phase = .running (.wseq 1#3 0x2000#32 2#32) 1 l0 ∧
      l0.i < (2#32).toNat ∧ Memory.read window6 ((0x2000#32).toNat + l0.i) = some 0x10#8 ∧
      (atPos ready (.wseq 1#3 0x2000#32 2#32) 1).txe = true ∧ CanConfig (atPos ready (.wseq 1#3 0x2000#32 2#32) 2)) ∧
    CanQueue (atPos ready (.wseq 1#3 0x2000#32 2#32) 3) ((Config.adjust 1#3 0x10#8).setWidth 16) ∧
    (l0.i + 1 < (2#32).toNat ∧ Memory.read window6 ((0x2000#32).toNat + (l0.i + 1)) = some 0x20#8) ∧
    (0#32).toNat ≤ l0.i ∧ (1#32).toNat ≤ l0.i + 1 ∧
    (Memory.read (atPos { busy with mem := window6 } (.wseq 1#3 0x2000#32 2#32) 1).mem ((0x2000#32).toNat + l0.i) =
        some 0x10#8 ∧ (atPos { busy with mem := window6 } (.wseq 1#3 0x2000#32 2#32) 1).txe = false) ∧
    Memory.read (atPos { disabled with mem := window6 } (.wseq 1#3 0x2000#32 2#32) 3).mem ((0x2000#32).toNat + l0.i) =
      some 0x10#8 ∧ (atPos { disabled with mem := window6 } (.wseq 1#3 0x2000#32 2#32) 3).en = false :=
  ⟨⟨rfl, by decide, rfl, rfl, rfl, rfl⟩, canQueue_byte _ _ _, ⟨by decide, rfl⟩, by decide, by decide, ⟨rfl, rfl⟩, rfl, rfl⟩

/-- The hook's list empty or not on a drained block; a byte being written; the last byte written; the release. -/
theorem test_witness_WseqDrainsBeforeItsRelease :
    (∀ n : Nat, if Config.postBlock 1#3 n = [] then (atPos ready (.wseq 1#3 0#32 0#32) 5).idle = true
      else (atPos ready (.wseq 1#3 0#32 0#32) 5).txe = true) ∧
    CanConfig (atPos ready (.wseq 1#3 0#32 0#32) 6) ∧
    ({ l0 with post := [0xE0#8, 1#8] } : Locals).post = 0xE0#8 :: [1#8] ∧
    CanQueue (atPos ready (.wseq 1#3 0#32 0#32) 7) ((0xE0#8).setWidth 16) ∧
    ({ l0 with post := [0xE0#8, 1#8] } : Locals).post.tail = 1#8 :: [] ∧
    ({ l0 with post := [0xE0#8] } : Locals).post.tail = [] ∧
    (atPos ready (.wseq 1#3 0#32 0#32) 9).phase = .running (.wseq 1#3 0#32 0#32) 9 l0 ∧
    (∀ p : List Byte, if p = [] then (atPos busy (.wseq 1#3 0#32 0#32) 5).idle = false
      else (atPos busy (.wseq 1#3 0#32 0#32) 5).txe = false) ∧
    (atPos disabled (.wseq 1#3 0#32 0#32) 7).en = false := by
  refine ⟨fun n => ?_, ⟨rfl, rfl⟩, rfl, canQueue_byte _ _ _, rfl, rfl, rfl, fun p => ?_, rfl⟩ <;> split <;> rfl

/-- The µops' premises with the clock latch low, and with it high before and after the disable. -/
theorem test_witness_WbitMicroOpsComplete :
    ((atPos ready (.wbit 1#8 0#3) 0).phase = .running (.wbit 1#8 0#3) 0 l0 ∧
      (atPos ready (.wbit 1#8 0#3) 0).idle = true) ∧
    (ready.mstr = true ∧ ready.dirClk = true ∧ ready.dirData = true ∧ ready.latClk = false) ∧
    (atPos { ready with en := false } (.wbit 1#8 0#3) 2).en = false ∧
    ((atPos { ready with latClk := true } (.wbit 1#8 0#3) 1).idle = true ∧ ({ ready with latClk := true } : State).en = true) ∧
    (atPos { disabled with latClk := true } (.wbit 1#8 0#3) 3).en = false ∧ (atPos busy (.wbit 1#8 0#3) 0).idle = false := by
  decide

theorem test_witness_WbitEmitsItsBitIfTheClockLatchIsLow :
    ready.phase = .idle ∧ ready.initDone = true ∧ ready.idle = true ∧ ready.en = true ∧ ready.mstr = true ∧
    ready.dirData = true ∧ ready.dirClk = true := by decide

/-- The whole window, with and without framing bits, and an empty one. -/
theorem test_witness_WpixOpensItsSourceAndStarts :
    (atPos ready (.wpix (pix 3#32 true)) 1).phase = .running (.wpix (pix 3#32 true)) 1 l0 ∧
    readBytes window6 (pix 3#32 true).addr.toNat (pix 3#32 true).len.toNat = some [0x10#8, 0x20#8, 0x30#8] ∧
    0 < (pix 3#32 true).len.toNat ∧ (pix 3#32 true).sbf = true ∧ (pix 3#32 false).sbf = false ∧
    ready.idle = true ∧ ready.txe = true ∧ readBytes [] (pix 0#32 true).addr.toNat (pix 0#32 true).len.toNat = some [] ∧
    (atPos busy (.wpix (pix 3#32 true)) 1).idle = false ∧ (atPos busy (.wpix (pix 3#32 false)) 1).txe = false :=
  ⟨rfl, rfl, by decide, rfl, rfl, rfl, rfl, rfl, rfl, rfl⟩

/-- A spin, a Cfg and a Queue of each channel, another pixel to come, and the last one done. -/
theorem test_witness_WpixQueuesThreeChannelBytes :
    ((atPos ready (.wpix (pix 6#32 false)) 11).phase = .running (.wpix (pix 6#32 false)) 11 l0 ∧ ready.txe = true ∧
      CanConfig (atPos ready (.wpix (pix 6#32 false)) 12)) ∧
    CanQueue (atPos ready (.wpix (pix 6#32 false)) 13) ((Config.adjust 0#3 (Config.psCh1 0)).setWidth 16) ∧
    3 + (pix 6#32 false).skip.toNat < ({ l0 with rem := 6 } : Locals).rem ∧
    ({ l0 with rem := 3 } : Locals).rem ≤ 3 + (pix 6#32 false).skip.toNat ∧
    ((atPos busy (.wpix (pix 6#32 false)) 8).txe = false ∧ (atPos busy (.wpix (pix 6#32 true)) 2).idle = false) ∧
    (atPos disabled (.wpix (pix 6#32 false)) 10).en = false :=
  ⟨⟨rfl, rfl, rfl, rfl⟩, canQueue_byte _ _ _, by decide, by decide, ⟨rfl, rfl⟩, rfl⟩

/-- The µops' premises with the clock latch low, and with it high before and after the disable. -/
theorem test_witness_WpixFramingBitMicroOpsComplete :
    ((atPos ready (.wpix (pix 3#32 true)) 3).phase = .running (.wpix (pix 3#32 true)) 3 l0 ∧
      (atPos ready (.wpix (pix 3#32 true)) 3).idle = true) ∧
    (ready.mstr = true ∧ ready.dirClk = true ∧ ready.dirData = true ∧ ready.latClk = false) ∧
    (atPos { ready with en := false } (.wpix (pix 3#32 true)) 4).en = false ∧
    ((atPos { ready with latClk := true } (.wpix (pix 3#32 true)) 3).idle = true ∧
      ({ ready with latClk := true } : State).en = true) ∧
    (atPos { disabled with latClk := true } (.wpix (pix 3#32 true)) 5).en = false := by decide

theorem test_witness_WpixDrainsBeforeItsRelease :
    (∀ n : Nat, if Config.postBlock 1#3 n = [] then (atPos ready (.wpix (pix 3#32 true)) 17).idle = true
      else (atPos ready (.wpix (pix 3#32 true)) 17).txe = true) ∧
    CanConfig (atPos ready (.wpix (pix 3#32 true)) 18) ∧
    ({ l0 with post := [0xE0#8, 1#8] } : Locals).post = 0xE0#8 :: [1#8] ∧
    CanQueue (atPos ready (.wpix (pix 3#32 true)) 19) ((0xE0#8).setWidth 16) ∧
    ({ l0 with post := [0xE0#8, 1#8] } : Locals).post.tail = 1#8 :: [] ∧
    ({ l0 with post := [0xE0#8] } : Locals).post.tail = [] ∧
    (atPos ready (.wpix (pix 3#32 true)) 21).phase = .running (.wpix (pix 3#32 true)) 21 l0 ∧
    (∀ p : List Byte, if p = [] then (atPos busy (.wpix (pix 3#32 true)) 17).idle = false
      else (atPos busy (.wpix (pix 3#32 true)) 17).txe = false) ∧
    (atPos disabled (.wpix (pix 3#32 true)) 19).en = false := by
  refine ⟨fun n => ?_, ⟨rfl, rfl⟩, rfl, canQueue_byte _ _ _, rfl, rfl, rfl, fun p => ?_, rfl⟩ <;> split <;> rfl

theorem test_witness_EmptyTransactionsStillBracket :
    ready.phase = .idle ∧ ready.initDone = true ∧ ready.idle = true ∧ (pix 0#32 true).tsel = 0#3 ∧
    (pix 0#32 true).len = 0#32 := by decide

/-- The first byte of `wseq`, its second byte, and the last byte of a `wpix` window, not admitted. -/
theorem test_witness_BlockedReadGivesTheSequencerNoStep :
    ((atPos ready (.wseq 0#3 0x5000#32 1#32) 1).phase = .running (.wseq 0#3 0x5000#32 1#32) 1 l0 ∧
      l0.i < (1#32).toNat ∧ Memory.read ready.mem ((0x5000#32).toNat + l0.i) = none) ∧
    (l0.i + 1 < (2#32).toNat ∧ Memory.read [(0x5000, 1#8)] ((0x5000#32).toNat + (l0.i + 1)) = none) ∧
    (5 < (pix 6#32 false).len.toNat ∧ Memory.read ready.mem ((pix 6#32 false).addr.toNat + 5) = none) ∧
    ready.fault = none ∧ ready.sheReady = false := by decide

/-- 0 to 1 by a latch over each data level, 0 to 1 by the multiplexer, Z to 1, 0 to Z, and no change. -/
theorem test_witness_WireUpdateRecordsRisingClocks :
    ({ ready with en := false, latClk := true } : State).wireClk = .high ∧
    ({ ready with en := false, latClk := true } : State).wireData = levelOf false ∧
    ({ ready with en := false, dirData := false } : State).wireData = .hiZ ∧ fresh.wireClk = .hiZ ∧
    ready.wireClk = .low := by decide

/-- A LOAD and the last SHIFT of a word. -/
theorem test_witness_ShiftEngineLoadsAndShifts :
    (∃ t, SheMoves { ready with txh := some aa } t ∧ ({ ready with txh := some aa } : State).sr = none) ∧
    ∃ t, SheMoves { ready with sr := some { v := 1#16, w16 := false, div := 4#8, k := 1 } } t :=
  ⟨⟨_, ⟨rfl, rfl⟩, rfl⟩, ⟨_, rfl, rfl⟩⟩

theorem test_witness_WordLeavesMostSignificantBitFirst :
    ({ ready with txh := some aa } : State).sr = none ∧ ({ ready with txh := some aa } : State).txh = some aa := ⟨rfl, rfl⟩

/-! ### Witnesses for the invariants -/

/-- A ready block with 0xAA queued and not yet loaded. -/
def queued : State := { ready with txh := some aa, rtrace := [.queue 0x00AA#16 false] }

/-- `ready` at the start of running `i`, the stream spelling `i`. -/
def spelled (i : Instr) (k : Nat) : State := { atPos ready i k with stream := encode i }

theorem engineOk_queued : EngineOk queued := by
  refine ⟨fun w h => ?_, fun r h => by simp [queued, ready] at h, fun _ => ⟨rfl, rfl⟩⟩
  obtain rfl : aa = w := by simpa [queued] using h
  exact ⟨by decide, fun _ => by decide⟩

theorem test_witness_ShiftEngineDrainsInBoundedSteps : EngineOk queued ∧ drainSteps queued = 9 := ⟨engineOk_queued, rfl⟩

theorem test_witness_EngineInvariantKept : ∃ t, EngineOk queued ∧ step queued = .next t := ⟨_, engineOk_queued, rfl⟩

/-- A word outstanding, and one on the wire with the block drained. -/
theorem test_witness_WireCarriesTheQueuedWords :
    (∃ t, EngineOk queued ∧ WireOk queued ∧ step queued = .next t) ∧
    WireOk { ready with
      rtrace := [.queue 0x00AA#16 false]
      wtrace := [true, false, true, false, true, false, true, false].map fun b => .edge b .asserted .hw (some 4#8) } ∧
    ready.idle = true :=
  ⟨⟨_, engineOk_queued, rfl, rfl⟩, rfl, rfl⟩

theorem streamOk_spelled : StreamOk (spelled (.wbyte 0xAA#8) 0) :=
  ⟨by decide, fun c k l h => by
    obtain ⟨rfl, -, -⟩ : Instr.wbyte 0xAA#8 = c ∧ 0 = k ∧ l0 = l := by simpa [spelled, atPos] using h
    exact ⟨by decide, rfl⟩⟩

theorem test_witness_StreamInvariantKept :
    ∃ t, StreamOk (spelled (.wbyte 0xAA#8) 0) ∧ step (spelled (.wbyte 0xAA#8) 0) = .next t := ⟨_, streamOk_spelled, rfl⟩

/-- INIT half run, and INIT done. -/
theorem test_witness_InitInvariantKept :
    (∃ t, InitOk (atPos { fresh with dirData := true, dirClk := true } .init 3) ∧
      step (atPos { fresh with dirData := true, dirClk := true } .init 3) = .next t) ∧
    ∃ t, InitOk (withWords ready [0x86000000#32]) ∧ step (withWords ready [0x86000000#32]) = .next t := by
  refine ⟨⟨_, ⟨fun h => by simp [atPos, fresh] at h, fun k l h => ?_⟩, rfl⟩,
    ⟨_, ⟨fun _ => ⟨rfl, rfl, rfl, rfl⟩, fun k l h => by simp [withWords, ready] at h⟩, rfl⟩⟩
  obtain ⟨rfl, -⟩ : 3 = k ∧ l0 = l := by simpa [atPos] using h
  exact ⟨fun _ => rfl, fun _ => rfl, by decide, by decide⟩

/-- A wbyte about to write, its width and divider set, TXH empty. -/
def aboutToWrite : State := { atPos ready (.wbyte 0xAA#8) 2 with div := Config.divT }

theorem started_aboutToWrite : StartedOk aboutToWrite ∧ DrainOk aboutToWrite ∧ WriteOk aboutToWrite := by
  have hp : ∀ c k l, aboutToWrite.phase = .running c k l → c = .wbyte 0xAA#8 ∧ k = 2 := fun c k l h => by
    obtain ⟨rfl, rfl, -⟩ : Instr.wbyte 0xAA#8 = c ∧ 2 = k ∧ l0 = l := by simpa [aboutToWrite, atPos] using h
    exact ⟨rfl, rfl⟩
  refine ⟨fun _ _ _ _ _ _ => rfl, fun c k l h => ?_, fun c k l h => ?_⟩ <;> obtain ⟨rfl, rfl⟩ := hp c k l h
  · exact ⟨fun h => by simp [drainedAt] at h, fun h => by simp [disabledAt] at h⟩
  · exact ⟨fun _ => rfl, fun _ => ⟨rfl, rfl, rfl⟩⟩

theorem test_witness_CommandInvariantsKept :
    StartedOk aboutToWrite ∧ DrainOk aboutToWrite ∧ WriteOk aboutToWrite ∧ ∃ t, step aboutToWrite = .next t := by
  refine ⟨started_aboutToWrite.1, started_aboutToWrite.2.1, started_aboutToWrite.2.2, ?_⟩
  have h : step aboutToWrite = runMicro (.wbyte 0xAA#8) (.uop (.writeTdr (zext16 0xAA#8)) 3 l0) aboutToWrite := rfl
  rw [h, runMicro]
  cases runUop (.writeTdr (zext16 0xAA#8)) aboutToWrite <;> exact ⟨_, rfl⟩

/-- A step inside a bracket: the drain of an empty `wseq`, and the shift engine's step beside it. -/
theorem test_witness_BracketHoldsChipSelect :
    ∃ t, CsOk (atPos ready (.wseq 0#3 0#32 0#32) 5) ∧ BracketOk (atPos ready (.wseq 0#3 0#32 0#32) 5) ∧
      step (atPos ready (.wseq 0#3 0#32 0#32) 5) = .next t ∧ insideBracket (.wseq 0#3 0#32 0#32) 5 = true ∧
      t.phase = .running (.wseq 0#3 0#32 0#32) 9 l0 :=
  ⟨_, fun _ => rfl, fun _ _ _ _ _ => rfl, rfl, rfl, rfl⟩

/-- The premises in a state whose next step completes, and in one whose next step is WRITE_WHILE_DISABLED. -/
theorem test_witness_SClassRunsOnlyFaultWhenDisabled :
    (InitOk aboutToWrite ∧ StartedOk aboutToWrite ∧ DrainOk aboutToWrite ∧ WriteOk aboutToWrite ∧
      aboutToWrite.fault = none ∧ aboutToWrite.phase = .running (.wbyte 0xAA#8) 2 l0 ∧
      (Instr.wbyte 0xAA#8).isSClass = true ∧ Instr.wbyte 0xAA#8 ≠ .init) ∧
    ∃ t, step { aboutToWrite with en := false } = .next t ∧ t.fault = some .writeWhileDisabled := by
  refine ⟨⟨⟨fun _ => ⟨rfl, rfl, rfl, rfl⟩, fun k l h => by simp [aboutToWrite, atPos] at h⟩, started_aboutToWrite.1,
    started_aboutToWrite.2.1, started_aboutToWrite.2.2, rfl, rfl, rfl, by decide⟩, ⟨_, rfl, rfl⟩⟩

/-- The release of each bracketed, drained command. -/
theorem test_witness_BracketReleasesAfterFullDrain :
    (∃ t, DrainOk (atPos ready (.wseq 0#3 0#32 0#32) 9) ∧ WireOk (atPos ready (.wseq 0#3 0#32 0#32) 9) ∧
      step (atPos ready (.wseq 0#3 0#32 0#32) 9) = .next t) ∧
    ∃ t, DrainOk (atPos ready (.wpix (pix 3#32 true)) 21) ∧ WireOk (atPos ready (.wpix (pix 3#32 true)) 21) ∧
      step (atPos ready (.wpix (pix 3#32 true)) 21) = .next t := by
  refine ⟨⟨_, fun c k l h => ⟨fun _ => rfl, fun hd => ?_⟩, rfl, rfl⟩,
    ⟨_, fun c k l h => ⟨fun _ => rfl, fun hd => ?_⟩, rfl, rfl⟩⟩
  · obtain ⟨rfl, rfl, -⟩ : Instr.wseq 0#3 0#32 0#32 = c ∧ 9 = k ∧ l0 = l := by simpa [atPos] using h
    simp [disabledAt] at hd
  · obtain ⟨rfl, rfl, -⟩ : Instr.wpix (pix 3#32 true) = c ∧ 21 = k ∧ l0 = l := by simpa [atPos] using h
    simp [disabledAt] at hd

/-- A decode step, and a step of a running command. -/
theorem test_witness_EveryCommandFollowsItsScript :
    (Progressing (withWords ready [0x040000AA#32]) ∧ WriteOk (withWords ready [0x040000AA#32]) ∧
      ∃ t, step (withWords ready [0x040000AA#32]) = .next t ∧ t.phase = .running (.wbyte 0xAA#8) 0 l0) ∧
    Progressing aboutToWrite ∧ WriteOk aboutToWrite := by
  refine ⟨⟨fun c k l h => by simp [withWords, ready] at h, fun c k l h => by simp [withWords, ready] at h, _, rfl, rfl⟩,
    fun c k l h => ?_, started_aboutToWrite.2.2⟩
  obtain ⟨rfl, -⟩ : Instr.wbyte 0xAA#8 = c ∧ _ := by simpa [aboutToWrite, atPos] using h
  trivial

/-- A step of a running stream before its hook and one after it, and a window that is admitted. -/
theorem test_witness_PixelStreamQueuesThreeBytesAPixel :
    (∃ t, Progressing (atPos ready (.wpix (pix 0#32 false)) 1) ∧ step (atPos ready (.wpix (pix 0#32 false)) 1) = .next t ∧
      t.phase = .running (.wpix (pix 0#32 false)) 17 { l0 with sigma := pixSource (pix 0#32 false) [] }) ∧
    (∃ t, Progressing (atPos busy (.wpix (pix 0#32 false)) 21) ∧ step (atPos busy (.wpix (pix 0#32 false)) 21) = .next t ∧
      t.phase = .running (.wpix (pix 0#32 false)) 22 l0) ∧
    window window6 (pix 6#32 true).addr (pix 6#32 true).len =
      some [0x10#8, 0x20#8, 0x30#8, 0x40#8, 0x50#8, 0x60#8] := by
  refine ⟨⟨_, fun c k l h => ?_, rfl, rfl⟩, ⟨_, fun c k l h => ?_, rfl, rfl⟩, rfl⟩
  · obtain ⟨rfl, rfl, -⟩ : Instr.wpix (pix 0#32 false) = c ∧ 1 = k ∧ l0 = l := by simpa [atPos] using h
    simp [localsOk, pix]
  · obtain ⟨rfl, rfl, -⟩ : Instr.wpix (pix 0#32 false) = c ∧ 21 = k ∧ l0 = l := by simpa [atPos] using h
    simp [localsOk, pix]

theorem test_witness_LaunchMemoryAndStreamNeverChange :
    ∃ t, Memory.wf window6 = true ∧ step { atPos ready .pEn 0 with mem := window6 } = .next t := ⟨_, by decide, rfl⟩

theorem test_witness_NothingIsUndone :
    ∃ t, step queued = .next t ∧ queued.initDone = true ∧ queued.unlocked = true ∧ queued.mstr = true ∧
      queued.dirData = true ∧ queued.dirClk = true := ⟨_, rfl, rfl, rfl, rfl, rfl, rfl⟩

theorem test_witness_NothingIsUndone_faulted :
    ∃ t, step { queued with fault := some .overrun } = .next t ∧ ({ queued with fault := some .overrun } : State).fault ≠ none :=
  ⟨_, rfl, by decide⟩

/-- A faulted state, for the clause on FAULT's code. -/
theorem test_witness_ResetValuesAndRegisterViews :
    ({ ready with fault := some .overrun } : State).fault = some .overrun := rfl

/-- A final state, and a state that meets the invariants. -/
theorem test_witness_RunsStopOnlyWhereTheSpecSays :
    Final ready ∧ StreamOk (spelled (.wbyte 0xAA#8) 0) ∧ EngineOk (spelled (.wbyte 0xAA#8) 0) ∧
    Progressing (spelled (.wbyte 0xAA#8) 0) := by
  refine ⟨⟨rfl, rfl, rfl, rfl⟩, streamOk_spelled, ⟨fun w h => by simp [spelled, atPos, ready] at h,
    fun r h => by simp [spelled, atPos, ready] at h, fun h => by simp [spelled, atPos, ready, State.idle] at h⟩,
    fun c k l h => ?_⟩
  obtain ⟨rfl, -, -⟩ : Instr.wbyte 0xAA#8 = c ∧ 0 = k ∧ l0 = l := by simpa [spelled, atPos] using h
  trivial

/-! ### Executions that count -/

/-- R79 and R106: with ENGINE_FAIR = 0 the run that has ended with a word in TXH counts, and refutes every claim. -/
theorem test_claim_refuted_by_unserved_word (hf : Config.engineFair = false) (post : State → Prop) :
    ¬ Claim { ready with txh := some aa } post :=
  not_claim_of_end (.refl _) ((mayEnd_iff_seq hf).2 fun t h => by cases h) fun h => by cases h.2.2.2

/-- With ENGINE_FAIR = 1 no execution that counts ends there: the shift engine still has its step. -/
theorem test_unserved_word_is_no_end (hf : Config.engineFair = true) : ¬ MayEnd { ready with txh := some aa } :=
  fun h => h.2 hf _ ⟨rfl, rfl⟩

end Sys2Proof.Tests
end

section
/-! What one transition of an agent does, as one case distinction that every invariant goes through, and the facts about
the µops and the micro-programs that the invariants need (40_execution R77-R103). -/

namespace Sys2Proof.Proofs

open Sys2Proof Sys2Proof.Machine Sys2Proof.Safety

/-! ### One transition -/

/-- One transition of SEQ or SHE from `s`, by what it does: SEQ's fault, decode step, retire step, completed µop and failed
spin (40_execution R80-R85), SHE's SHIFT and LOAD (R102, R103). -/
inductive Transition (s : State) : State → Prop where
  | fault (c : FaultCode) (unfaulted : s.fault = none) : Transition s (s.raiseFault c)
  | start (i : Instr) (unfaulted : s.fault = none) (phase : s.phase = .idle) (fetched : fetch s = some (.ok i))
      (passed : commandCheck i s = none) : Transition s (s.start i Locals.start)
  | retire {i : Instr} {k : Nat} {l : Locals} (unfaulted : s.fault = none) (phase : s.phase = .running i k l)
      (program : commandProgram i s.mem k l = .retire) : Transition s (commandRetire i s)
  | uop {i : Instr} {k k' : Nat} {l l' : Locals} {u : Uop} {t : State} (unfaulted : s.fault = none)
      (phase : s.phase = .running i k l) (program : commandProgram i s.mem k l = .uop u k' l')
      (done : runUop u s = .done t) : Transition s (t.goto i k' l')
  | spin {i : Instr} {k k' : Nat} {l l' : Locals} {u : Uop} (unfaulted : s.fault = none)
      (phase : s.phase = .running i k l) (program : commandProgram i s.mem k l = .uop u k' l')
      (again : runUop u s = .again (s.emitR s.pollEvent)) : Transition s (s.emitR s.pollEvent)
  | shift (r : ShiftWord) (ready : s.sheReady = true) (sr : s.sr = some r) : Transition s (s.shift r)
  | load (w : TxWord) (ready : s.sheReady = true) (sr : s.sr = none) (txh : s.txh = some w) : Transition s (s.load w)

theorem transition_of_seqMoves {s t : State} (h : SeqMoves s t) : Transition s t := by
  obtain ⟨hf, ⟨c, rfl⟩ | ⟨i, hp, hi, hc, rfl⟩ | ⟨i, k, l, hp, ⟨hm, rfl⟩ | ⟨u, k', l', hm, ⟨t', hd, rfl⟩ | ha⟩⟩⟩ :=
    seqStep_effect h
  · exact .fault c hf
  · exact .start i hf hp hi hc
  · exact .retire hf hp hm
  · exact .uop hf hp hm hd
  · obtain ⟨rfl, -⟩ := runUop_again ha
    exact .spin hf hp hm ha

theorem transition_of_sheMoves {s t : State} (h : SheMoves s t) : Transition s t := by
  obtain ⟨hr, rfl⟩ := h
  obtain ⟨r, hs, e⟩ | ⟨w, hs, ht, e⟩ := sheStep_cases hr <;> rw [e]
  · exact .shift r hr hs
  · exact .load w hr hs ht

/-- A property of the next state follows from each transition, if the model's own scheduling fields do not matter to it. -/
theorem of_step {P : State → Prop} {s t : State} (h : step s = .next t) (choose : ∀ u, P u → P u.chooseTurn)
    (transition : ∀ u, Transition s u → P u) : P t := by
  obtain ⟨u, hm, rfl | rfl⟩ := step_moves h
  · exact transition _ (hm.elim transition_of_seqMoves transition_of_sheMoves)
  · exact choose _ (transition _ (hm.elim transition_of_seqMoves transition_of_sheMoves))

/-- The retire step of any command, as one update (40_execution R82, 42_init_select R120). -/
theorem commandRetire_eq (i : Instr) (s : State) :
    commandRetire i s =
      { s with initDone := decide (i = .init) || s.initDone, cp := s.cp + 1 + i.nExt, phase := .idle } := by
  unfold commandRetire
  split
  · next h => subst h; rfl
  · next h => simp [State.retire, h]

/-! ### The shift engine's words (O46) -/

/-- The engine's invariant reads TXH and SR, and asks EN and MSTR of an outstanding word only. -/
theorem engineOk_of_same_words {s t : State} (h : EngineOk s) (htxh : t.txh = s.txh) (hsr : t.sr = s.sr)
    (hen : s.idle = false → s.en = true → t.en = true) (hmstr : s.mstr = true → t.mstr = true) : EngineOk t := by
  obtain ⟨hword, hshift, hmaster⟩ := h
  have hidle : t.idle = s.idle := by simp [State.idle, htxh, hsr]
  refine ⟨htxh ▸ hword, hsr ▸ hshift, fun hi => ?_⟩
  have hi' : s.idle = false := hidle ▸ hi
  exact ⟨hen hi' (hmaster hi').1, hmstr (hmaster hi').2⟩

/-- uWriteTDR checks what the invariant asks of a word in TXH (40_execution R89). -/
theorem engineOk_writeTdr {v : Half} {s t : State} (h : EngineOk s) (hd : runUop (.writeTdr v) s = .done t) :
    EngineOk t := by
  obtain ⟨hen, hmstr, -, hv, hdiv, rfl⟩ := runUop_done hd
  refine ⟨fun w hw => ?_, h.2.1, fun _ => ⟨hen, hmstr⟩⟩
  obtain rfl := Option.some.inj hw
  exact ⟨hdiv, hv⟩

theorem engineOk_runUop {u : Uop} {s t : State} (h : EngineOk s) (hd : runUop u s = .done t) : EngineOk t := by
  cases u
  case writeTdr v => exact engineOk_writeTdr h hd
  case disable =>
    obtain ⟨hidle, rfl⟩ := runUop_done hd
    exact engineOk_of_same_words h rfl rfl (by simp [hidle]) id
  all_goals
    have := runUop_done hd
    refine engineOk_of_same_words h ?_ ?_ (fun _ => ?_) ?_ <;> simp_all

/-- LOAD moves a word in its domain into SR, with its whole width to shift (40_execution R102). -/
theorem engineOk_load {s : State} {w : TxWord} (h : EngineOk s) (hw : s.txh = some w) : EngineOk (s.load w) := by
  obtain ⟨hword, -, hmaster⟩ := h
  refine ⟨fun w' hw' => by simp at hw', fun r hr => ?_, fun _ => hmaster (by simp [State.idle, hw])⟩
  obtain rfl := Option.some.inj hr
  refine ⟨hword w hw, ?_, le_rfl⟩
  simp only [widthOf]
  split <;> decide

/-- SHIFT counts SR down and empties it at its last bit (40_execution R103). -/
theorem engineOk_shift {s : State} {r : ShiftWord} (h : EngineOk s) (hr : s.sr = some r) : EngineOk (s.shift r) := by
  obtain ⟨hword, hshift, hmaster⟩ := h
  obtain ⟨hdom, -, hk⟩ := hshift r hr
  refine ⟨hword, fun r' hr' => ?_, fun _ => hmaster (by simp [State.idle, hr])⟩
  rw [State.shift_sr] at hr'
  split at hr'
  · cases hr'
  · obtain rfl := Option.some.inj hr'
    exact ⟨hdom, by dsimp only; omega, by dsimp only; omega⟩

theorem engineOk_transition {s t : State} (h : EngineOk s) (ht : Transition s t) : EngineOk t := by
  cases ht with
  | fault c => exact h
  | start i => exact h
  | retire => rw [commandRetire_eq]; exact h
  | uop _ _ _ hd => exact (engineOk_runUop h hd :)
  | spin => exact h
  | shift r _ hr => exact engineOk_shift h hr
  | load w _ _ hw => exact engineOk_load h hw

/-- Settles O46: each transition keeps the invariant, the scheduling fields not being part of it. -/
theorem engineInvariantKept : Obligations.EngineInvariantKept := by
  unfold Obligations.EngineInvariantKept
  intro s t h hstep
  exact of_step hstep (fun _ hu => hu) fun _ => engineOk_transition h

/-! ### CP and the stream (O48) -/

/-- What a legal opcode builds has the extension words its format has (30_encoding R65). -/
theorem nExt_buildInstr {opc : Byte} {f : Format} {cw e1 e2 e3 : Word} {i : Instr} (hf : formatOf opc = some f)
    (hb : buildInstr opc cw e1 e2 e3 = some i) : i.nExt = formatExt f := by
  unfold formatOf at hf
  split at hf <;> cases hf <;> simp [buildInstr] at hb
  case h_11 => obtain ⟨o, -, rfl⟩ := hb; rfl
  all_goals subst hb; rfl

/-- A head word that passes its checks has a legal opcode (30_encoding R68). -/
theorem formatOf_of_decodeHead {cw : Word} {f : Format} (h : decodeHead cw = .ok f) :
    formatOf (cw.extractLsb' 24 8) = some f := by
  unfold decodeHead at h
  split at h
  · cases h
  · next g hg =>
    repeat' split at h
    all_goals cases h
    exact hg

/-- A command's words are all in the list it is decoded from (30_encoding R66). -/
theorem length_of_decode {ws : List Word} {i : Instr} (h : decode ws = .ok i) : 1 + i.nExt ≤ ws.length := by
  cases ws with
  | nil => cases h
  | cons cw ext =>
    simp only [decode] at h
    split at h
    · cases h
    · next f hf =>
      split at h
      · cases h
      · next hlen =>
        repeat' split at h
        all_goals cases h
        next hb =>
        rw [nExt_buildInstr (formatOf_of_decodeHead hf) hb, List.length_cons]
        omega

/-- What SEQ fetches lies in the stream at CP (40_execution R80). -/
theorem fetch_eq_ok {s : State} {i : Instr} (h : fetch s = some (.ok i)) :
    s.cp < s.stream.length ∧ decode (s.stream.drop s.cp) = .ok i := by
  unfold fetch at h
  split at h
  · next hcp => exact ⟨hcp, Option.some.inj h⟩
  · cases h

theorem streamOk_transition {s t : State} (h : StreamOk s) (ht : Transition s t) : StreamOk t := by
  obtain ⟨hcp, hrun⟩ := h
  cases ht with
  | fault c => exact ⟨hcp, hrun⟩
  | start i _ _ hi =>
    refine ⟨hcp, fun c k l hp => ?_⟩
    cases hp
    exact fetch_eq_ok hi
  | @retire i k l _ hp =>
    obtain ⟨-, hdec⟩ := hrun _ _ _ hp
    have hlen := length_of_decode hdec
    rw [List.length_drop] at hlen
    rw [commandRetire_eq]
    refine ⟨?_, fun c k l hp => by cases hp⟩
    dsimp only
    omega
  | @uop i k k' l l' u t' _ hp _ hd =>
    have hframe := runUop_frame (.inl hd)
    refine ⟨by simpa [hframe.cp, hframe.stream] using hcp, fun c k l hc => ?_⟩
    cases hc
    simpa [hframe.cp, hframe.stream] using hrun _ _ _ hp
  | spin => exact ⟨hcp, hrun⟩
  | shift r => exact ⟨hcp, hrun⟩
  | load w => exact ⟨hcp, hrun⟩

/-- Settles O48: a command starts where it is decoded, and its words, all in the stream, are what its retire step passes. -/
theorem streamInvariantKept : Obligations.StreamInvariantKept := by
  unfold Obligations.StreamInvariantKept
  intro s t h hstep
  exact of_step hstep (fun _ hu => hu) fun _ => streamOk_transition h

/-! ### Wire events and chip select -/

/-- A clock transition records at most one event, under the chip select of its state (40_execution R100). -/
theorem wireEvents_spec (o : Origin) (c0 : Level) (s : State) :
    (wireEvents o c0 s).length ≤ 1 ∧ ∀ x ∈ wireEvents o c0 s, wireCs x = s.cs := by
  unfold wireEvents
  split <;> simp [wireCs]

/-- `t`'s wire trace is `s`'s with at most one more event, recorded under `t`'s chip select (10_state R36). -/
def WireGrows (s t : State) : Prop :=
  ∃ e, t.wtrace = s.wtrace ++ e ∧ e.length ≤ 1 ∧ ∀ x ∈ e, wireCs x = t.cs

theorem wireGrows_of_same {s t : State} (h : t.wtrace = s.wtrace) : WireGrows s t := ⟨[], by simp [h]⟩

theorem wireGrows_wireUpdate {s t : State} (h : t.wtrace = s.wtrace) (o : Origin) (c0 : Level) :
    WireGrows s (t.wireUpdate o c0) :=
  ⟨wireEvents o c0 t, by simp [h], (wireEvents_spec o c0 t).1, (wireEvents_spec o c0 t).2⟩

theorem wireGrows_guardCall {s t : State} (h : t.wtrace = s.wtrace) (level : CsLevel) :
    WireGrows s (t.guardCall level) := by
  cases hg : Config.guardPresent
  · exact wireGrows_of_same (by simp [hg, h])
  · exact ⟨[.cs level], by simp [hg, h, wireCs]⟩

theorem wireGrows_runUop {u : Uop} {s t : State} (hd : runUop u s = .done t) : WireGrows s t := by
  have h := runUop_done hd
  cases u
  case spinTxe | spinIdle => obtain ⟨-, rfl⟩ := h; exact wireGrows_of_same rfl
  case setCfg => obtain ⟨-, -, rfl⟩ := h; exact wireGrows_of_same rfl
  case writeTdr => obtain ⟨-, -, -, -, -, rfl⟩ := h; exact wireGrows_of_same rfl
  case unlock | postBlock => obtain rfl : t = _ := h; exact wireGrows_of_same rfl
  case enable => obtain rfl : t = _ := h; exact wireGrows_wireUpdate rfl _ _
  case disable | setMaster | pinOut => obtain ⟨-, rfl⟩ := h; exact wireGrows_wireUpdate (by simp) _ _
  case pinHigh | pinLow => obtain ⟨-, -, rfl⟩ := h; exact wireGrows_wireUpdate (by simp) _ _
  case select | release => obtain rfl : t = _ := h; exact wireGrows_guardCall rfl _

theorem wireGrows_transition {s t : State} (ht : Transition s t) : WireGrows s t := by
  cases ht with
  | fault c => exact wireGrows_of_same rfl
  | start i => exact wireGrows_of_same rfl
  | retire => rw [commandRetire_eq]; exact wireGrows_of_same rfl
  | uop _ _ _ hd => exact (wireGrows_runUop hd :)
  | spin => exact wireGrows_of_same rfl
  | shift r => exact ⟨[.edge (shiftBit r) s.cs .hw (some r.div)], rfl, le_rfl, by simp [wireCs]⟩
  | load w => exact wireGrows_of_same rfl

theorem wireGrows_step {s t : State} (h : step s = .next t) : WireGrows s t :=
  of_step h (fun _ hu => hu) fun _ => wireGrows_transition

/-- Only the guard's two µops move chip select (40_execution R97, R98). -/
theorem runUop_cs_of_not_guard {u : Uop} {s t : State} (hd : runUop u s = .done t) (hsel : u ≠ .select)
    (hrel : u ≠ .release) : t.cs = s.cs := by
  have h := runUop_done hd
  cases u
  case select => exact absurd rfl hsel
  case release => exact absurd rfl hrel
  all_goals simp_all

/-- Without a guard no µop moves chip select (10_state R34). -/
theorem runUop_cs_of_no_guard {u : Uop} {s t : State} (hd : runUop u s = .done t)
    (hg : Config.guardPresent = false) : t.cs = s.cs := by
  by_cases hu : u = .select ∨ u = .release
  · obtain rfl | rfl := hu <;> obtain rfl : t = _ := runUop_done hd <;> simp [hg]
  · obtain ⟨hsel, hrel⟩ := not_or.1 hu
    exact runUop_cs_of_not_guard hd hsel hrel

theorem csOk_transition {s t : State} (h : CsOk s) (ht : Transition s t) : CsOk t := by
  intro hg
  have hs := h hg
  cases ht with
  | fault c => exact hs
  | start i => exact hs
  | retire => rw [commandRetire_eq]; exact hs
  | uop _ _ _ hd => exact (runUop_cs_of_no_guard hd hg).trans hs
  | spin => exact hs
  | shift r => exact hs
  | load w => exact hs

/-! ### What the loop tests ask for -/

/-- The loop test of `wbv` (44_bracketed R127). -/
theorem bvHead_uop {n k : Nat} {l l' : Locals} {u : Uop} (h : bvHead n l = .uop u k l') :
    l' = l ∧ (l.i < n ∧ u = .spinTxe ∧ k = 2 ∨ ¬ l.i < n ∧ u = .release ∧ k = 5) := by
  unfold bvHead at h
  split at h <;> cases h <;> simp [*]

/-- The loop test over the post-block bytes (44_bracketed R128). -/
theorem postHead_uop {kByte kRelease k : Nat} {l l' : Locals} {u : Uop}
    (h : postHead kByte kRelease l = .uop u k l') :
    l' = l ∧ (l.post = [] ∧ u = .spinIdle ∧ k = kRelease ∨ l.post ≠ [] ∧ u = .spinTxe ∧ k = kByte) := by
  unfold postHead at h
  split at h <;> cases h <;> simp [*]

/-- The loop test of `wseq` (44_bracketed R128). -/
theorem seqHead_uop {mem : List Host.Cell} {addr len : Word} {k : Nat} {l l' : Locals} {u : Uop}
    (h : seqHead mem addr len l = .uop u k l') :
    l' = l ∧ (l.i < len.toNat ∧ u = .spinTxe ∧ k = 2 ∨ ¬ l.i < len.toNat ∧ u = .postBlock len.toNat ∧ k = 5) := by
  unfold seqHead at h
  repeat' split at h
  all_goals cases h <;> simp [*]

/-- The loop test of `wpix` (46_pixel_stream R130). -/
theorem pixHead_uop {a : PixArgs} {k : Nat} {l l' : Locals} {u : Uop} (h : pixHead a l = .uop u k l') :
    l' = l ∧
      (0 < l.rem ∧ a.sbf = true ∧ u = .spinIdle ∧ k = 3 ∨ 0 < l.rem ∧ a.sbf = false ∧ u = .spinTxe ∧ k = 9 ∨
        l.rem = 0 ∧ u = .postBlock a.len.toNat ∧ k = 17) := by
  unfold pixHead at h
  repeat' split at h
  all_goals cases h ; simp_all

/-! ### Chip select inside a bracket (O51) -/

/-- A µop that goes on inside a command's bracket is its select, or it stands inside already and is no guard call. -/
def KeepsBracket (c : Instr) (k : Nat) (u : Uop) (k' : Nat) : Prop :=
  insideBracket c k' = true → u = .select ∨ (insideBracket c k = true ∧ u ≠ .select ∧ u ≠ .release)

theorem bvProgram_keepsBracket {b : Byte} {n : Word} {k k' : Nat} {l l' : Locals} {u : Uop}
    (h : bvProgram b n.toNat k l = .uop u k' l') : KeepsBracket (.wbv b n) k u k' := by
  unfold bvProgram at h
  split at h
  -- the loop test, at positions 1 and 4
  case h_2 | h_5 => obtain ⟨-, ⟨-, rfl, rfl⟩ | ⟨-, rfl, rfl⟩⟩ := bvHead_uop h <;> simp [KeepsBracket, insideBracket]
  all_goals cases h <;> simp [KeepsBracket, insideBracket]

theorem seqProgram_keepsBracket {mem : List Host.Cell} {ts : BitVec 3} {a n : Word} {k k' : Nat} {l l' : Locals}
    {u : Uop} (h : seqProgram mem ts a n k l = .uop u k' l') : KeepsBracket (.wseq ts a n) k u k' := by
  unfold seqProgram at h
  split at h
  -- the byte loop's test, at 1 and 4; the post-block loop's, at 5 and 8; the write of a window byte, at 3
  case h_2 | h_5 => obtain ⟨-, ⟨-, rfl, rfl⟩ | ⟨-, rfl, rfl⟩⟩ := seqHead_uop h <;> simp [KeepsBracket, insideBracket]
  case h_6 | h_9 => obtain ⟨-, ⟨-, rfl, rfl⟩ | ⟨-, rfl, rfl⟩⟩ := postHead_uop h <;> simp [KeepsBracket, insideBracket]
  case h_4 => split at h <;> cases h; simp [KeepsBracket, insideBracket]
  all_goals cases h <;> simp [KeepsBracket, insideBracket, postWrite]

theorem dataUop_ne_guard (b : Bool) : dataUop b ≠ .select ∧ dataUop b ≠ .release := by cases b <;> decide

/-- The pixel loop's test stands inside the bracket, before the first pixel and after each. -/
theorem pixHead_keepsBracket {a : PixArgs} {k k' : Nat} {l l' : Locals} {u : Uop} (hk : 1 ≤ k ∧ k ≤ 2)
    (h : pixHead a l = .uop u k' l') : KeepsBracket (.wpix a) k u k' := by
  refine fun _ => .inr ⟨decide_eq_true (by omega), ?_⟩
  obtain ⟨-, ⟨-, -, rfl, -⟩ | ⟨-, -, rfl, -⟩ | ⟨-, rfl, -⟩⟩ := pixHead_uop h <;> simp

theorem pixProgram_keepsBracket {mem : List Host.Cell} {a : PixArgs} {k k' : Nat} {l l' : Locals}
    {u : Uop} (h : pixProgram mem a k l = .uop u k' l') : KeepsBracket (.wpix a) k u k' := by
  unfold pixProgram at h
  split at h
  -- the pixel loop's test, at 1 and 2; the post-block loop's, at 17 and 20
  case h_2 =>
    split at h
    · cases h
    · exact pixHead_keepsBracket (by omega) h
  case h_3 => exact pixHead_keepsBracket (by omega) h
  case h_18 | h_21 => obtain ⟨-, ⟨-, rfl, rfl⟩ | ⟨-, rfl, rfl⟩⟩ := postHead_uop h <;> simp [KeepsBracket, insideBracket]
  all_goals cases h <;> simp [KeepsBracket, insideBracket, postWrite, pixWrite, dataUop_ne_guard]

/-- The other commands have no bracket. -/
theorem commandProgram_keepsBracket {c : Instr} {mem : List Host.Cell} {k k' : Nat} {l l' : Locals} {u : Uop}
    (h : commandProgram c mem k l = .uop u k' l') : KeepsBracket c k u k' := by
  cases c
  case wbv => exact bvProgram_keepsBracket h
  case wseq => exact seqProgram_keepsBracket h
  case wpix => exact pixProgram_keepsBracket h
  all_goals exact fun hin => absurd hin Bool.false_ne_true

theorem insideBracket_zero (c : Instr) : insideBracket c 0 = false := by cases c <;> rfl

theorem runUop_select_cs {s t : State} (h : CsOk s) (hd : runUop .select s = .done t) : t.cs = .asserted := by
  obtain rfl : t = _ := runUop_done hd
  cases hg : Config.guardPresent
  · simpa [hg] using h hg
  · simp [hg]

theorem bracketOk_transition {s t : State} (hcs : CsOk s) (h : BracketOk s) (ht : Transition s t) : BracketOk t := by
  cases ht with
  | fault c => exact h
  | start i =>
    intro c k l hp hin
    cases hp
    exact absurd hin (by simp [insideBracket_zero])
  | retire =>
    rw [commandRetire_eq]
    intro c k l hp
    cases hp
  | uop _ hp hm hd =>
    intro c k l hc hin
    cases hc
    obtain rfl | ⟨hin', hsel, hrel⟩ := commandProgram_keepsBracket hm hin
    · exact (runUop_select_cs hcs hd :)
    · exact (runUop_cs_of_not_guard hd hsel hrel).trans (h _ _ _ hp hin')
  | spin => exact h
  | shift r => exact h
  | load w => exact h

/-- Settles O51: only the select enters a bracket and only the release leaves it, and a wire event is recorded under the
chip select the step leaves, which inside the bracket is asserted. -/
theorem bracketHoldsChipSelect : Obligations.BracketHoldsChipSelect := by
  unfold Obligations.BracketHoldsChipSelect
  intro s t hcs hb hstep
  have hb' : BracketOk t := of_step hstep (fun _ hu => hu) fun _ => bracketOk_transition hcs hb
  refine ⟨of_step hstep (fun _ hu => hu) fun _ => csOk_transition hcs, hb', fun c k l k' l' _ hp _ hin => ?_⟩
  obtain ⟨e, he, -, hwire⟩ := wireGrows_step hstep
  exact ⟨e, he, fun x hx => (hwire x hx).trans (hb' c k' l' hp hin)⟩

/-! ### What no step undoes (O58) -/

/-- What a transition sets it leaves set, the register trace grows by at most one event, and CP does not fall (10_state
R17, R21, R24, R31, R35, 30_encoding R73). -/
structure OneWay (s t : State) : Prop where
  initDone : s.initDone = true → t.initDone = true
  unlocked : s.unlocked = true → t.unlocked = true
  mstr : s.mstr = true → t.mstr = true
  dirData : s.dirData = true → t.dirData = true
  dirClk : s.dirClk = true → t.dirClk = true
  rtrace : ∃ e, t.rtrace = s.rtrace ++ e ∧ e.length ≤ 1
  cp : s.cp ≤ t.cp

/-- A µop that completes records its one event and clears none of the one-way registers (40_execution R86-R99). -/
theorem runUop_keeps_registers {u : Uop} {s t : State} (hd : runUop u s = .done t) :
    (s.unlocked = true → t.unlocked = true) ∧ (s.mstr = true → t.mstr = true) ∧
    (s.dirData = true → t.dirData = true) ∧ (s.dirClk = true → t.dirClk = true) ∧ ∃ e, t.rtrace = s.rtrace ++ [e] := by
  have h := runUop_done hd
  cases u
  case pinOut p =>
    obtain ⟨-, rfl⟩ := h
    cases p <;> simp [State.setOutput]
  all_goals simp_all

theorem oneWay_transition {s t : State} (ht : Transition s t) : OneWay s t := by
  cases ht with
  | fault c => exact ⟨id, id, id, id, id, ⟨[.fault c], rfl, le_rfl⟩, le_rfl⟩
  | start i => exact ⟨id, id, id, id, id, ⟨[], by simp⟩, le_rfl⟩
  | retire =>
    rw [commandRetire_eq]
    exact ⟨by simp +contextual, id, id, id, id, ⟨[], by simp⟩, by dsimp only; omega⟩
  | uop _ _ _ hd =>
    have hframe := runUop_frame (.inl hd)
    obtain ⟨hun, hmstr, hdata, hclk, e, he⟩ := runUop_keeps_registers hd
    exact ⟨by simp [hframe.initDone], hun, hmstr, hdata, hclk, ⟨[e], he, le_rfl⟩, by simp [hframe.cp]⟩
  | spin => exact ⟨id, id, id, id, id, ⟨[s.pollEvent], rfl, le_rfl⟩, le_rfl⟩
  | shift r => exact ⟨id, id, id, id, id, ⟨[], by simp⟩, le_rfl⟩
  | load w => exact ⟨id, id, id, id, id, ⟨[], by simp⟩, le_rfl⟩

/-- Once FAULT is set only SHE moves, and it leaves FAULT alone (40_execution R80, 60_exceptions R136). -/
theorem fault_kept_transition {s t : State} (hf : s.fault ≠ none) (ht : Transition s t) : t.fault = s.fault := by
  cases ht with
  | fault _ h | start _ h | retire h | uop h | spin h => exact absurd h hf
  | shift r => rfl
  | load w => rfl

/-- Settles O58, from what each transition leaves set and what it adds to the traces. -/
theorem nothingIsUndone : Obligations.NothingIsUndone := by
  unfold Obligations.NothingIsUndone
  intro s t hstep
  have h : OneWay s t := of_step hstep (fun _ hu => { hu with }) fun _ => oneWay_transition
  obtain ⟨e, he, hlen, -⟩ := wireGrows_step hstep
  exact ⟨h.initDone, fun hf => of_step hstep (fun _ hu => hu) fun _ => fault_kept_transition hf, h.unlocked, h.mstr,
    h.dirData, h.dirClk, h.rtrace, ⟨e, he, hlen⟩, h.cp⟩

/-! ### Reset and the register views (O52, O59) -/

/-- With nothing queued and the peripheral off, the engine has nothing to keep. -/
theorem engineOk_reset : EngineOk State.reset :=
  ⟨nofun, nofun, nofun⟩

theorem csOk_reset : CsOk State.reset := fun hg => by simp [State.reset, hg]

/-- Settles O52: after reset no command runs, nothing is queued and the traces are empty; CS is a draw only with a guard. -/
theorem resetMeetsTheInvariants : Obligations.ResetMeetsTheInvariants := by
  unfold Obligations.ResetMeetsTheInvariants
  have notRunning {c : Instr} {k : Nat} {l : Locals} : State.reset.phase ≠ .running c k l := nofun
  exact ⟨engineOk_reset, rfl, ⟨le_rfl, fun _ _ _ h => absurd h notRunning⟩, ⟨nofun, fun _ _ h => absurd h notRunning⟩,
    fun _ _ _ h => absurd h notRunning, fun _ _ _ h => absurd h notRunning, fun _ _ _ h => absurd h notRunning,
    csOk_reset, fun _ _ _ h => absurd h notRunning, fun _ _ _ h => absurd h notRunning, rfl⟩

/-- The five fields of CTRL (10_state R19). -/
theorem ctrl_fields (s : State) :
    s.ctrl.getLsbD 0 = s.en ∧ s.ctrl.getLsbD 1 = s.mstr ∧ s.ctrl.getLsbD 2 = s.w16 ∧
    s.ctrl.extractLsb' 3 5 = 0#5 ∧ s.ctrl.extractLsb' 8 8 = s.div := by
  unfold State.ctrl
  refine ⟨?_, ?_, ?_, ?_, ?_⟩
  · rw [getLsbD_low _ _ _ (by decide)]; simp
  · rw [getLsbD_up _ _ _ (by decide), getLsbD_low _ _ _ (by decide)]; simp
  · rw [getLsbD_up _ _ _ (by decide), getLsbD_up _ _ _ (by decide), getLsbD_low _ _ _ (by decide)]; simp
  · rw [extract_up _ _ _ _ (by decide), extract_up _ _ _ _ (by decide), extract_up _ _ _ _ (by decide),
      extract_low _ _ _ _ (by decide)]
    exact extract_all _
  · repeat rw [extract_up _ _ _ _ (by decide)]
    exact extract_all _

/-- The two bits of STATUS (10_state R25). -/
theorem status_bits (s : State) :
    (s.status.getLsbD 0 = true ↔ s.txh = none) ∧ (s.status.getLsbD 1 = true ↔ s.txh = none ∧ s.sr = none) := by
  unfold State.status
  rw [getLsbD_low _ _ 0 (by decide), getLsbD_up _ _ 1 (by decide)]
  simp [State.txe, State.idle]

/-- FAULT reads 0 for no fault only: R135 numbers its codes from 1 (10_state R18). -/
theorem faultReg_eq_zero_iff (s : State) : s.faultReg = 0#4 ↔ s.fault = none := by
  unfold State.faultReg
  cases s.fault with
  | none => simp
  | some c => cases c <;> decide

/-- Settles O59: the reset values by evaluation, the register views field by field. -/
theorem resetValuesAndRegisterViews : Obligations.ResetValuesAndRegisterViews := by
  unfold Obligations.ResetValuesAndRegisterViews
  have hcs : Config.guardPresent = true ∨ State.reset.cs = .asserted := by
    cases hg : Config.guardPresent
    · exact .inr (csOk_reset hg)
    · exact .inl rfl
  refine ⟨rfl, rfl, rfl, rfl, rfl, rfl, rfl, rfl, rfl, rfl, rfl, rfl, rfl, rfl, hcs, rfl, rfl, fun s => ?_, ?_⟩
  · obtain ⟨hen, hmstr, hw16, hres, hdiv⟩ := ctrl_fields s
    obtain ⟨htxe, hidle⟩ := status_bits s
    exact ⟨hen, hmstr, hw16, hres, hdiv, htxe, hidle, faultReg_eq_zero_iff s, fun c hc => by simp [State.faultReg, hc]⟩
  · simp only [codeNumber, and_self]

end Sys2Proof.Proofs
end

section
/-! The memory family (20_memory): the words queued and the words on the wire, the checks on a window, and the launch memory
that no step changes. -/

namespace Sys2Proof.Proofs

open Sys2Proof Sys2Proof.Machine Sys2Proof.Safety

/-! ### The bits queued and the bits on the wire (O47) -/

@[simp] theorem hwBits_append (w₁ w₂ : List WEvent) : hwBits (w₁ ++ w₂) = hwBits w₁ ++ hwBits w₂ := List.flatMap_append

@[simp] theorem queuedBits_append (r₁ r₂ : List REvent) : queuedBits (r₁ ++ r₂) = queuedBits r₁ ++ queuedBits r₂ :=
  List.flatMap_append

@[simp] theorem hwBits_singleton (e : WEvent) : hwBits [e] = hwBit e := List.flatMap_singleton _ _

@[simp] theorem queuedBits_singleton (e : REvent) : queuedBits [e] = queueBits e := List.flatMap_singleton _ _

/-- A clock transition that SEQ causes puts no bit of the shift engine's on the wire (40_execution R100). -/
theorem hwBits_wireEvents {o : Origin} (ho : o ≠ .hw) (c0 : Level) (s : State) : hwBits (wireEvents o c0 s) = [] := by
  unfold wireEvents
  split
  · cases o
    case hw => exact absurd rfl ho
    all_goals rfl
  all_goals rfl

/-- The invariant reads TXH, SR and the two bit sequences of the traces. -/
theorem wireOk_of_same_bits {s t : State} (h : WireOk s) (htxh : t.txh = s.txh) (hsr : t.sr = s.sr)
    (hwire : hwBits t.wtrace = hwBits s.wtrace) (hqueue : queuedBits t.rtrace = queuedBits s.rtrace) : WireOk t := by
  have hpending : pendingBits t = pendingBits s := by simp only [pendingBits, srBits, txhBits, htxh, hsr]
  rw [WireOk, hwire, hpending, hqueue]
  exact h

/-- uWriteTDR fills the empty TXH with the word whose bits it records as queued (40_execution R89). -/
theorem wireOk_writeTdr {v : Half} {s t : State} (h : WireOk s) (hd : runUop (.writeTdr v) s = .done t) : WireOk t := by
  obtain ⟨-, -, htxe, -, -, rfl⟩ := runUop_done hd
  have hempty : s.txh = none := by simpa [State.txe] using htxe
  have hs : hwBits s.wtrace ++ srBits s = queuedBits s.rtrace := by simpa [WireOk, pendingBits, txhBits, hempty] using h
  simp [WireOk, pendingBits, srBits, txhBits, queueBits, ← hs]

/-- Every other µop leaves TXH alone, queues nothing and shifts nothing. -/
theorem wireOk_runUop {u : Uop} {s t : State} (h : WireOk s) (hd : runUop u s = .done t) : WireOk t := by
  cases u
  case writeTdr v => exact wireOk_writeTdr h hd
  case select | release =>
    obtain rfl : t = _ := runUop_done hd
    refine wireOk_of_same_bits h (by simp) (by simp) ?_ (by simp [queueBits])
    cases hg : Config.guardPresent <;> simp [hg, hwBit]
  all_goals
    have := runUop_done hd
    refine wireOk_of_same_bits h ?_ ?_ ?_ ?_ <;> simp_all [hwBits_wireEvents, queueBits]

/-- What SR holds is the bit SHIFT takes and what it leaves (40_execution R103). -/
theorem srBits_eq_shiftBit_cons {s : State} {r : ShiftWord} (hr : s.sr = some r) (hk : 1 ≤ r.k) :
    srBits s = shiftBit r :: srBits (s.shift r) := by
  obtain ⟨v, w16, div, k⟩ := r
  obtain _ | _ | k := k
  · exact absurd hk (by simp)
  all_goals simp [srBits, hr, wordBits, shiftBit]

theorem wireOk_shift {s : State} {r : ShiftWord} (h : WireOk s) (hr : s.sr = some r) (hk : 1 ≤ r.k) :
    WireOk (s.shift r) := by
  rw [WireOk, pendingBits, srBits_eq_shiftBit_cons hr hk] at h
  simpa [WireOk, pendingBits, txhBits, hwBit] using h

/-- LOAD moves a word's bits from TXH to the empty SR (40_execution R102). -/
theorem wireOk_load {s : State} {w : TxWord} (h : WireOk s) (hr : s.sr = none) (hw : s.txh = some w) :
    WireOk (s.load w) := by
  simpa [WireOk, pendingBits, srBits, txhBits, hr, hw] using h

theorem wireOk_transition {s t : State} (he : EngineOk s) (h : WireOk s) (ht : Transition s t) : WireOk t := by
  cases ht with
  | fault c => exact wireOk_of_same_bits h rfl rfl rfl (by simp [queueBits])
  | start i => exact h
  | retire => rw [commandRetire_eq]; exact h
  | uop _ _ _ hd => exact (wireOk_runUop h hd :)
  | spin => exact wireOk_of_same_bits h rfl rfl rfl (by simp [queueBits, State.pollEvent])
  | shift r _ hr =>
    obtain ⟨-, hshift, -⟩ := he
    obtain ⟨-, hk, -⟩ := hshift r hr
    exact wireOk_shift h hr hk
  | load w _ hr hw => exact wireOk_load h hr hw

/-- At full drain nothing is outstanding (10_state R25, R30). -/
theorem pendingBits_of_idle {s : State} (h : s.idle = true) : pendingBits s = [] := by
  obtain ⟨htxh, hsr⟩ : s.txh = none ∧ s.sr = none := by simpa [State.idle] using h
  simp [pendingBits, srBits, txhBits, htxh, hsr]

/-- Settles O47: a write appends a word's bits to those queued and to those outstanding, a SHIFT moves the first of those
outstanding to the wire, and no other transition touches them. -/
theorem wireCarriesTheQueuedWords : Obligations.WireCarriesTheQueuedWords := by
  unfold Obligations.WireCarriesTheQueuedWords
  refine ⟨fun s t he h hstep => of_step hstep (fun _ hu => hu) fun _ => wireOk_transition he h, fun s h hidle => ?_⟩
  simpa [WireOk, pendingBits_of_idle hidle] using h

/-! ### A word on its way out (O44) -/

/-- `k + 1` bits in SR leave in as many SHIFT steps, the most significant first (40_execution R103). -/
theorem sheStep_iterate_sr {v : Half} {w16 : Bool} {div : Byte} {k : Nat} {s : State}
    (h : s.sr = some { v := v, w16 := w16, div := div, k := k + 1 }) :
    sheStep^[k + 1] s = { s with
      sr := none, pdata := v.getLsbD 0
      wtrace := s.wtrace ++ (wordBits v (k + 1)).map fun b => .edge b s.cs .hw (some div) } := by
  induction k generalizing s with
  | zero => simp [sheStep, h, State.shift, shiftBit, wordBits]
  | succ k ih =>
    have hstep : sheStep s = s.shift { v := v, w16 := w16, div := div, k := k + 1 + 1 } := by simp [sheStep, h]
    rw [Function.iterate_succ_apply, hstep, ih (by simp)]
    simp [State.shift, shiftBit, wordBits]

/-- Settles O44: a LOAD, then a SHIFT for each bit of the word's width. -/
theorem wordLeavesMostSignificantBitFirst : Obligations.WordLeavesMostSignificantBitFirst := by
  unfold Obligations.WordLeavesMostSignificantBitFirst
  intro s w hsr htxh
  obtain ⟨k, hk⟩ : ∃ k, widthOf w.w16 = k + 1 := by
    cases w.w16
    · exact ⟨7, rfl⟩
    · exact ⟨15, rfl⟩
  have hload : sheStep s = s.load w := by simp [sheStep, hsr, htxh]
  rw [Nat.add_comm, Function.iterate_succ_apply, hload, hk, sheStep_iterate_sr (by rw [State.load_sr, hk])]
  simp [State.load, hsr]

/-! ### The checks on a window (O12) -/

/-- The initialisation check passes after INIT (42_init_select R119). -/
theorem initialisedCheck_of_initDone {s : State} (h : s.initDone = true) : initialisedCheck s = none := if_pos h

/-- A window that passes 2^32 fails its check (20_memory R41). -/
theorem rangeCheck_of_gt {a n : Word} (h : 2 ^ 32 < a.toNat + n.toNat) : rangeCheck a n = some .addressRange := if_pos h

theorem rangeCheck_of_le {a n : Word} (h : a.toNat + n.toNat ≤ 2 ^ 32) : rangeCheck a n = none :=
  if_neg (Nat.not_lt.2 h)

/-- A length that is not a whole number of pixels fails its check (46_pixel_stream R130). -/
theorem partialCheck_of_ne {p : PixArgs} (h : p.len.toNat % (3 + p.skip.toNat) ≠ 0) :
    partialCheck p = some .partialPixel := if_neg h

/-- A command-level check that fails raises its fault at decode (40_execution R80). -/
theorem exec_idle_of_check {i : Instr} {s : State} {c : FaultCode} (h : s.phase = .idle)
    (hc : commandCheck i s = some c) : exec i s = .next (afterFault s c) := by
  rw [exec_idle h, hc]
  rfl

/-- Settles O12, from the order of the command-level checks. -/
theorem windowAndPixelChecksFaultAtDecode : Obligations.WindowAndPixelChecksFaultAtDecode := by
  unfold Obligations.WindowAndPixelChecksFaultAtDecode
  refine ⟨fun t a n s hp hi hr => ?_, fun p s hp hi hr => ?_, fun p s hp hi hr hl => ?_⟩ <;>
    refine exec_idle_of_check hp ?_
  · simp only [commandCheck, initialisedCheck_of_initDone hi, rangeCheck_of_gt hr, firstFault]
  · simp only [commandCheck, pixCheck, initialisedCheck_of_initDone hi, rangeCheck_of_gt hr, firstFault]
  · simp only [commandCheck, pixCheck, initialisedCheck_of_initDone hi, rangeCheck_of_le hr, partialCheck_of_ne hl,
      firstFault]

/-! ### A read that is not admitted (O41) -/

/-- The loop test of `wseq` blocks on a window byte that is not admitted (44_bracketed R128, 20_memory R40). -/
theorem seqHead_blocked {mem : List Host.Cell} {a n : Word} {l : Locals} (hi : l.i < n.toNat)
    (hr : Memory.read mem (a.toNat + l.i) = none) : seqHead mem a n l = .blocked := by
  simp [seqHead, hi, windowByte, hr]

/-- A window with a byte that is not admitted has no value (20_memory R40, R41). -/
theorem window_eq_none {mem : List Host.Cell} {a n : Word} {j : Nat} (hj : j < n.toNat)
    (hr : Memory.read mem (a.toNat + j) = none) : window mem a n = none := by
  by_contra hw
  obtain ⟨w, hw⟩ := Option.ne_none_iff_exists'.1 hw
  obtain ⟨hlen, hread⟩ := readBytes_eq_some hw
  have hnone : w[j]? = none := hread j hj ▸ hr
  have := List.getElem?_eq_none_iff.1 hnone
  omega

/-- With SHE at rest the block's step is the running command's (40_execution R78, R81). -/
theorem step_eq_exec_of_running {s : State} {c : Instr} {k : Nat} {l : Locals} (hp : s.phase = .running c k l)
    (hf : s.fault = none) (hr : s.sheReady = false) : step s = exec c s := by
  simp [step, agentsStep, seqStep, hr, hf, hp]

/-- A blocked position gives SEQ no step, and the block none once SHE has none either (20_memory R40). -/
theorem blocked_has_no_step {s : State} {c : Instr} {k : Nat} {l : Locals} (hp : s.phase = .running c k l)
    (hb : commandProgram c s.mem k l = .blocked) :
    exec c s = .fault .memReadBlocked ∧ (s.fault = none → s.sheReady = false → step s = .fault .memReadBlocked) := by
  have hexec : exec c s = .fault .memReadBlocked := by rw [exec_running hp, hb]; rfl
  exact ⟨hexec, fun hf hr => (step_eq_exec_of_running hp hf hr).trans hexec⟩

/-- Settles O41: the two loop tests of `wseq` and the opening of the source of `wpix` block there. -/
theorem blockedReadGivesTheSequencerNoStep : Obligations.BlockedReadGivesTheSequencerNoStep := by
  unfold Obligations.BlockedReadGivesTheSequencerNoStep
  refine ⟨fun t a n s l h => ?_, fun a s l j hp hj hr => blocked_has_no_step hp ?_⟩
  · obtain ⟨hp, hi, hr⟩ | ⟨hp, hi, hr⟩ := h
    · exact blocked_has_no_step hp (seqHead_blocked hi hr)
    · exact blocked_has_no_step hp (seqHead_blocked (l := { l with i := l.i + 1 }) hi hr)
  · simp only [commandProgram, pixProgram, window_eq_none hj hr]

/-! ### What the host launched (O57) -/

/-- No transition writes memory or the stream (20_memory R40, 30_encoding R60). -/
theorem launched_transition {s t : State} (ht : Transition s t) : t.mem = s.mem ∧ t.stream = s.stream := by
  cases ht with
  | fault c => exact ⟨rfl, rfl⟩
  | start i => exact ⟨rfl, rfl⟩
  | retire => rw [commandRetire_eq]; exact ⟨rfl, rfl⟩
  | uop _ _ _ hd => exact ⟨(runUop_frame (.inl hd)).mem, (runUop_frame (.inl hd)).stream⟩
  | spin => exact ⟨rfl, rfl⟩
  | shift r => exact ⟨rfl, rfl⟩
  | load w => exact ⟨rfl, rfl⟩

theorem launched_step {s t : State} (h : step s = .next t) : t.mem = s.mem ∧ t.stream = s.stream :=
  of_step h (fun _ hu => hu) fun _ => launched_transition

/-- Settles O57: the memory and the stream are the same after each step, so they read the same. -/
theorem launchMemoryAndStreamNeverChange : Obligations.LaunchMemoryAndStreamNeverChange := by
  unfold Obligations.LaunchMemoryAndStreamNeverChange
  intro s t hstep
  obtain ⟨hmem, hstream⟩ := launched_step hstep
  exact ⟨hstream, fun a => by rw [hmem], fun hwf => hmem ▸ hwf⟩

end Sys2Proof.Proofs
end

section
/-! The encoding family (30_encoding): the decoder and the encoder are inverse to each other, the opcode map names
exactly the head words the decoder accepts, and every other word faults at decode. -/

namespace Sys2Proof.Proofs

open Sys2Proof Sys2Proof.Machine

/-! ### Fields of a concatenation -/

/-- A field of a field. -/
theorem extract_extract {w a n b m : Nat} (x : BitVec w) (h : b + m ≤ n) :
    (x.extractLsb' a n).extractLsb' b m = x.extractLsb' (a + b) m := by
  ext j hj
  have : b + j < n := by omega
  simp [BitVec.getElem_extractLsb', this, Nat.add_assoc]

/-- To be a concatenation is to have its parts as fields. -/
theorem eq_append_iff {w v : Nat} (x : BitVec w) (y : BitVec v) (z : BitVec (w + v)) :
    z = x ++ y ↔ z.extractLsb' v w = x ∧ z.extractLsb' 0 v = y := by
  constructor
  · rintro rfl
    exact ⟨BitVec.extractLsb'_append_eq_left, BitVec.extractLsb'_append_eq_right⟩
  · rintro ⟨rfl, rfl⟩
    rw [BitVec.extractLsb'_append_extractLsb'_eq_extractLsb' (Nat.zero_add v).symm, BitVec.extractLsb'_eq_self]

theorem eq_append_append_iff {w v u : Nat} (x : BitVec w) (y : BitVec v) (z : BitVec u) (t : BitVec (w + v + u)) :
    t = x ++ y ++ z ↔ t.extractLsb' (u + v) w = x ∧ t.extractLsb' u v = y ∧ t.extractLsb' 0 u = z := by
  rw [eq_append_iff, eq_append_iff, extract_extract _ (Nat.add_comm v w).le, extract_extract _ (by omega), Nat.add_zero,
    and_assoc]

theorem extract_eq_bitField_iff (b : Bool) (cw : Word) (n : Nat) :
    cw.extractLsb' n 1 = bitField b ↔ cw.getLsbD n = b := by
  have hbit : cw.extractLsb' n 1 = bitField (cw.getLsbD n) := by
    ext j hj
    obtain rfl : j = 0 := by omega
    simp [bitField]
  rw [hbit]
  cases b <;> cases cw.getLsbD n <;> decide

theorem extract_eq_pinBit_iff (p : Pin) (cw : Word) : cw.extractLsb' 0 1 = pinBit p ↔ fieldPin cw = p := by
  have hbit : pinBit p = bitField (decide (p = .clk)) := by cases p <;> rfl
  rw [hbit, extract_eq_bitField_iff, fieldPin]
  cases p <;> cases cw.getLsbD 0 <;> decide

/-- The ORDER field and the colour orders are inverse to each other (30_encoding R64). -/
theorem eq_orderBits_iff (o : ColorOrder) (b : BitVec 3) : b = orderBits o ↔ orderOfBits b = some o := by
  cases o <;> decide +revert

/-! ### What a command's words hold -/

/-- The format of a command (30_encoding R67); `formatOf_opcode` ties it to the decoder's table. -/
def commandFormat (i : Instr) : Format :=
  match i with
  | .wbyte _ => .v8
  | .wword _ | .pWtdr _ => .v16
  | .pCfg _ _ => .cfg
  | .pPinout _ | .pPinhi _ | .pPinlo _ => .pin
  | .wbit _ _ => .bit
  | .wrep _ _ | .wbv _ _ => .rpt
  | .wseq _ _ _ => .seq
  | .wpix _ => .pix
  | _ => .n

theorem formatOf_opcode (i : Instr) : formatOf i.opcode = some (commandFormat i) := by cases i <;> rfl

theorem formatExt_commandFormat (i : Instr) : formatExt (commandFormat i) = i.nExt := by cases i <;> rfl

theorem length_encode (i : Instr) : (encode i).length = 1 + i.nExt := by cases i <;> rfl

/-- The operands of `i` that lie in the head word are the fields of `cw` (30_encoding R63). -/
def HeadFields (i : Instr) (cw : Word) : Prop :=
  match i with
  | .wbyte b | .wrep b _ | .wbv b _ => fieldImm8 cw = b
  | .wword v | .pWtdr v => fieldImm16 cw = v
  | .wseq t _ _ => fieldTsel cw = t
  | .wbit b x => cw.extractLsb' 8 3 = x ∧ fieldImm8 cw = b
  | .wpix a =>
    fieldTsel cw = a.tsel ∧ cw.getLsbD 20 = a.sbf ∧ cw.getLsbD 19 = a.adv ∧
      orderOfBits (cw.extractLsb' 16 3) = some a.order ∧ cw.extractLsb' 8 8 = a.skip ∧ fieldImm8 cw = a.scale
  | .pCfg w d => cw.getLsbD 8 = w ∧ fieldImm8 cw = d
  | .pPinout p | .pPinhi p | .pPinlo p => fieldPin cw = p
  | _ => True

/-- The operands of `i` that lie in extension words are the fields of those words (30_encoding R63). -/
def ExtFields (i : Instr) (e1 e2 e3 : Word) : Prop :=
  match i with
  | .wrep _ n | .wbv _ n => e1 = n
  | .wseq _ a n => e1 = a ∧ e2 = n
  | .wpix a => e1 = a.addr ∧ e2 = a.len ∧ e3.extractLsb' 8 3 = a.fbidx ∧ e3.extractLsb' 0 8 = a.fbyte
  | _ => True

/-- The decoder builds the command whose opcode and operands the words hold. -/
theorem buildInstr_eq_some_iff {opc : Byte} {cw e1 e2 e3 : Word} {i : Instr} :
    buildInstr opc cw e1 e2 e3 = some i ↔ opc = i.opcode ∧ HeadFields i cw ∧ ExtFields i e1 e2 e3 := by
  constructor
  · intro h
    unfold buildInstr at h
    split at h
    case h_11 =>
      obtain ⟨o, ho, rfl⟩ := Option.map_eq_some_iff.1 h
      simp [HeadFields, ExtFields, ho, Instr.opcode]
    case h_23 => cases h
    all_goals
      obtain rfl := Option.some.inj h
      simp [HeadFields, ExtFields, Instr.opcode]
  · rintro ⟨rfl, hhead, hext⟩
    cases i <;> simp_all [HeadFields, ExtFields, Instr.opcode, buildInstr]

/-- The encoder writes the head word that holds the opcode, zeros in the reserved field, and the operands (30_encoding
R62): format by format, the concatenation is taken apart. -/
theorem eq_encodeHead_iff {i : Instr} {cw : Word} :
    cw = encodeHead i ↔
      cw.extractLsb' 24 8 = i.opcode ∧ reservedZero (commandFormat i) cw = true ∧ HeadFields i cw := by
  cases i
  case wbyte b | wrep b _ | wbv b _ =>
    refine (eq_append_append_iff _ 0#16 b cw).trans ?_
    simp [HeadFields, reservedZero, commandFormat, fieldImm8]
  case wword v | pWtdr v =>
    refine (eq_append_append_iff _ 0#8 v cw).trans ?_
    simp [HeadFields, reservedZero, commandFormat, fieldImm16]
  case wseq t _ _ =>
    refine (eq_append_append_iff _ t 0#21 cw).trans ?_
    simp [HeadFields, reservedZero, commandFormat, fieldTsel, and_comm]
  case pPinout p | pPinhi p | pPinlo p =>
    refine (eq_append_append_iff _ 0#23 (pinBit p) cw).trans ?_
    simp [HeadFields, reservedZero, commandFormat, extract_eq_pinBit_iff]
  case wbit b x =>
    refine ((eq_append_iff _ b cw).trans (and_congr_left' (eq_append_append_iff _ 0#13 x _))).trans ?_
    simp [HeadFields, reservedZero, commandFormat, fieldImm8, extract_extract, and_assoc]
  case pCfg w d =>
    refine ((eq_append_iff _ d cw).trans (and_congr_left' (eq_append_append_iff _ 0#15 (bitField w) _))).trans ?_
    simp [HeadFields, reservedZero, commandFormat, fieldImm8, extract_extract, extract_eq_bitField_iff, and_assoc]
  case wpix a =>
    refine ((eq_append_append_iff _ a.skip a.scale cw).trans (and_congr_left'
      ((eq_append_append_iff _ (bitField a.adv) (orderBits a.order) _).trans (and_congr_left'
        (eq_append_append_iff _ a.tsel (bitField a.sbf) _))))).trans ?_
    simp [HeadFields, reservedZero, commandFormat, fieldImm8, fieldTsel, extract_extract, extract_eq_bitField_iff,
      eq_orderBits_iff, and_assoc]
  all_goals
    refine (eq_append_iff _ 0#24 cw).trans ?_
    simp [HeadFields, reservedZero, commandFormat]

/-- The encoder writes the extension words that hold the operands, with zeros in the reserved field of EXT3 (30_encoding
R62). -/
theorem take_eq_encodeExt_iff {i : Instr} {ext : List Word} :
    ext.take i.nExt = encodeExt i ↔
      i.nExt ≤ ext.length ∧ (commandFormat i = .pix → (ext.getD 2 0#32).extractLsb' 11 21 = 0#21) ∧
        ExtFields i (ext.getD 0 0#32) (ext.getD 1 0#32) (ext.getD 2 0#32) := by
  cases i
  case wrep _ n | wbv _ n => cases ext <;> simp [Instr.nExt, encodeExt, commandFormat, ExtFields]
  case wseq _ a n =>
    rcases ext with _ | ⟨e1, _ | ⟨e2, rest⟩⟩ <;> simp [Instr.nExt, encodeExt, commandFormat, ExtFields]
  case wpix a =>
    rcases ext with _ | ⟨e1, _ | ⟨e2, _ | ⟨e3, rest⟩⟩⟩
    case cons.cons.cons =>
      have hext3 : e3 = 0#21 ++ a.fbidx ++ a.fbyte ↔ _ := eq_append_append_iff 0#21 a.fbidx a.fbyte e3
      simp [Instr.nExt, encodeExt, commandFormat, ExtFields, hext3, and_left_comm]
    all_goals simp [Instr.nExt, encodeExt]
  all_goals simp [Instr.nExt, encodeExt, commandFormat, ExtFields]

/-! ### The checks on a head word -/

/-- The head checks of 60_exceptions R138 step 1, all passed. -/
theorem decodeHead_eq_ok_iff {cw : Word} {f : Format} :
    decodeHead cw = .ok f ↔
      formatOf (cw.extractLsb' 24 8) = some f ∧ reservedZero f cw = true ∧ valuesLegal f cw = true := by
  constructor
  · intro h
    refine ⟨formatOf_of_decodeHead h, ?_⟩
    simp only [decodeHead, formatOf_of_decodeHead h] at h
    split at h
    · cases h
    · split at h
      · cases h
      · next hres hval => exact ⟨eq_true_of_ne_false hres, eq_true_of_ne_false hval⟩
  · rintro ⟨hf, hres, hval⟩
    simp [decodeHead, hf, hres, hval]

/-- Each failed head check is ILLEGAL_COMMAND (60_exceptions R135). -/
theorem decodeFault_of_decodeHead_error {cw : Word} {e : DecodeError} (h : decodeHead cw = .error e) :
    decodeFault e = .illegalCommand := by
  unfold decodeHead at h
  repeat' split at h
  case h_2.isFalse.isFalse => cases h
  all_goals
    cases h
    rfl

/-- On a word that holds a command's operands the value checks are the command's well-formedness (30_encoding R70). -/
theorem valuesLegal_of_headFields {i : Instr} {cw : Word} (h : HeadFields i cw) :
    valuesLegal (commandFormat i) cw = i.wellFormed := by
  cases i
  case pCfg w d =>
    obtain ⟨-, rfl⟩ := h
    rfl
  case wpix a =>
    obtain ⟨-, -, -, horder, -⟩ := h
    simp [valuesLegal, commandFormat, horder, Instr.wellFormed]
  all_goals rfl

/-- A word passes the head checks and holds the opcode and operands of `i` exactly if it is the head word of a
well-formed `i`. -/
theorem decodeHead_ok_and_fields_iff {cw : Word} {f : Format} {i : Instr} :
    (decodeHead cw = .ok f ∧ cw.extractLsb' 24 8 = i.opcode ∧ HeadFields i cw) ↔
      f = commandFormat i ∧ cw = encodeHead i ∧ i.wellFormed = true := by
  rw [decodeHead_eq_ok_iff, eq_encodeHead_iff]
  constructor
  · rintro ⟨⟨hf, hres, hval⟩, hopc, hfields⟩
    obtain rfl : commandFormat i = f := by rwa [hopc, formatOf_opcode, Option.some_inj] at hf
    exact ⟨rfl, ⟨hopc, hres, hfields⟩, valuesLegal_of_headFields hfields ▸ hval⟩
  · rintro ⟨rfl, ⟨hopc, hres, hfields⟩, hwf⟩
    exact ⟨⟨hopc ▸ formatOf_opcode i, hres, (valuesLegal_of_headFields hfields).trans hwf⟩, hopc, hfields⟩

theorem decodeHead_encodeHead {i : Instr} (h : i.wellFormed = true) :
    decodeHead (encodeHead i) = .ok (commandFormat i) :=
  (decodeHead_ok_and_fields_iff.2 ⟨rfl, rfl, h⟩).1

/-! ### The decoder, case by case (60_exceptions R138 steps 1 to 3) -/

theorem decode_of_head_error {cw : Word} {e : DecodeError} (h : decodeHead cw = .error e) (ext : List Word) :
    decode (cw :: ext) = .error e := by
  simp only [decode, h]

theorem decode_of_short {cw : Word} {f : Format} {ext : List Word} (h : decodeHead cw = .ok f)
    (hlen : ext.length < formatExt f) : decode (cw :: ext) = .error .truncated := by
  simp only [decode, h, if_pos hlen]

theorem decode_of_reservedExt3 {cw : Word} {ext : List Word} (h : decodeHead cw = .ok .pix) (hlen : 3 ≤ ext.length)
    (hext3 : (ext.getD 2 0#32).extractLsb' 11 21 ≠ 0#21) : decode (cw :: ext) = .error .reservedExt3 := by
  simp only [decode, h, if_neg (Nat.not_lt.2 hlen : ¬ ext.length < formatExt .pix)]
  exact if_pos ⟨trivial, hext3⟩

theorem decode_eq_ok_iff_of_checks {cw : Word} {f : Format} {ext : List Word} {i : Instr} (h : decodeHead cw = .ok f)
    (hlen : formatExt f ≤ ext.length) (hext3 : f = .pix → (ext.getD 2 0#32).extractLsb' 11 21 = 0#21) :
    decode (cw :: ext) = .ok i ↔
      buildInstr (cw.extractLsb' 24 8) cw (ext.getD 0 0#32) (ext.getD 1 0#32) (ext.getD 2 0#32) = some i := by
  have hpix : ¬(f = .pix ∧ (ext.getD 2 0#32).extractLsb' 11 21 ≠ 0#21) := fun ⟨hf, hne⟩ => hne (hext3 hf)
  simp only [decode, h, if_neg (Nat.not_lt.2 hlen), if_neg hpix]
  split <;> simp_all

theorem decode_cons_eq_ok_iff {cw : Word} {ext : List Word} {i : Instr} :
    decode (cw :: ext) = .ok i ↔
      ∃ f, decodeHead cw = .ok f ∧ formatExt f ≤ ext.length ∧
        (f = .pix → (ext.getD 2 0#32).extractLsb' 11 21 = 0#21) ∧
        buildInstr (cw.extractLsb' 24 8) cw (ext.getD 0 0#32) (ext.getD 1 0#32) (ext.getD 2 0#32) = some i := by
  refine ⟨fun h => ?_, fun ⟨f, hf, hlen, hext3, hb⟩ => (decode_eq_ok_iff_of_checks hf hlen hext3).2 hb⟩
  cases hf : decodeHead cw with
  | error e =>
    rw [decode_of_head_error hf] at h
    cases h
  | ok f =>
    by_cases hlen : formatExt f ≤ ext.length
    · by_cases hext3 : f = .pix → (ext.getD 2 0#32).extractLsb' 11 21 = 0#21
      · exact ⟨f, rfl, hlen, hext3, (decode_eq_ok_iff_of_checks hf hlen hext3).1 h⟩
      · obtain ⟨rfl, hne⟩ := Classical.not_imp.1 hext3
        rw [decode_of_reservedExt3 hf hlen hne] at h
        cases h
    · rw [decode_of_short hf (Nat.not_le.1 hlen)] at h
      cases h

/-! ### Decoder and encoder (O1, O2) -/

/-- A word list decodes to `i` exactly if `i` is well-formed and the list starts with its words: head checks and head
operands make up the head word, the rest makes up the extension words. -/
theorem decode_eq_ok_iff {ws : List Word} {i : Instr} :
    decode ws = .ok i ↔ i.wellFormed = true ∧ ws.take (1 + i.nExt) = encode i := by
  cases ws with
  | nil => simp [decode, encode]
  | cons cw ext =>
    rw [decode_cons_eq_ok_iff, Nat.add_comm, List.take_succ_cons, encode, List.cons.injEq, take_eq_encodeExt_iff]
    constructor
    · rintro ⟨f, hf, hlen, hext3, hb⟩
      obtain ⟨hopc, hhead, hext⟩ := buildInstr_eq_some_iff.1 hb
      obtain ⟨rfl, hcw, hwf⟩ := decodeHead_ok_and_fields_iff.1 ⟨hf, hopc, hhead⟩
      exact ⟨hwf, hcw, formatExt_commandFormat i ▸ hlen, hext3, hext⟩
    · rintro ⟨hwf, hcw, hlen, hext3, hext⟩
      obtain ⟨hf, hopc, hhead⟩ := decodeHead_ok_and_fields_iff.2 ⟨rfl, hcw, hwf⟩
      exact ⟨_, hf, (formatExt_commandFormat i).symm ▸ hlen, hext3, buildInstr_eq_some_iff.2 ⟨hopc, hhead, hext⟩⟩

/-- Settles O1: the words of `i` stand at the front of the list, whatever follows them. -/
theorem decodeReadsBackEveryEncoding : Obligations.DecodeReadsBackEveryEncoding := by
  unfold Obligations.DecodeReadsBackEveryEncoding
  intro i after hwf
  exact decode_eq_ok_iff.2 ⟨hwf, by rw [← length_encode, List.take_left]⟩

/-- Settles O2: the other direction of the same equivalence. -/
theorem decodedWordsAreTheEncoding : Obligations.DecodedWordsAreTheEncoding := by
  unfold Obligations.DecodedWordsAreTheEncoding
  intro ws i h
  exact decode_eq_ok_iff.1 h

/-! ### The opcode map (O3) -/

/-- The mask of a format's rows: the opcode and the reserved field (30_encoding R67); `opcodeRows_mask_pattern` ties it
to the spec's table. -/
def formatMask (f : Format) : Word :=
  match f with
  | .n => BitVec.allOnes 8 ++ (0#0 ++ BitVec.allOnes 24 ++ 0#0)
  | .v8 | .rpt => BitVec.allOnes 8 ++ (0#0 ++ BitVec.allOnes 16 ++ 0#8)
  | .v16 => BitVec.allOnes 8 ++ (0#0 ++ BitVec.allOnes 8 ++ 0#16)
  | .cfg => BitVec.allOnes 8 ++ (0#0 ++ BitVec.allOnes 15 ++ 0#9)
  | .pin => BitVec.allOnes 8 ++ (0#0 ++ BitVec.allOnes 23 ++ 0#1)
  | .bit => BitVec.allOnes 8 ++ (0#0 ++ BitVec.allOnes 13 ++ 0#11)
  | .seq => BitVec.allOnes 8 ++ (0#3 ++ BitVec.allOnes 21 ++ 0#0)
  | .pix => BitVec.allOnes 8 ++ (0#24 ++ BitVec.allOnes 0 ++ 0#0)

/-- A mask of the opcode and of `v` bits above the lowest `u` compares just these two fields. -/
theorem and_fieldMask_eq_iff {w v u : Nat} (opc : Byte) (t : BitVec (8 + (w + v + u))) :
    t &&& (BitVec.allOnes 8 ++ (0#w ++ BitVec.allOnes v ++ 0#u)) = opc ++ 0#(w + v + u) ↔
      t.extractLsb' (w + v + u) 8 = opc ∧ t.extractLsb' u v = 0#v := by
  have hv : u + v ≤ w + v + u := by omega
  rw [eq_append_iff, BitVec.extractLsb'_and, BitVec.extractLsb'_and, BitVec.extractLsb'_append_eq_left,
    BitVec.extractLsb'_append_eq_right, BitVec.and_allOnes, ← BitVec.zero_append_zero, ← BitVec.zero_append_zero,
    eq_append_append_iff]
  simp [BitVec.extractLsb'_and, extract_extract, hv, extract_up, extract_low]

theorem and_formatMask_eq_iff (f : Format) (opc : Byte) (cw : Word) :
    cw &&& formatMask f = opc ++ 0#24 ↔ cw.extractLsb' 24 8 = opc ∧ reservedZero f cw = true := by
  cases f
  case n => exact (and_fieldMask_eq_iff (w := 0) (v := 24) (u := 0) opc cw).trans (by simp [reservedZero])
  case v8 | rpt => exact (and_fieldMask_eq_iff (w := 0) (v := 16) (u := 8) opc cw).trans (by simp [reservedZero])
  case v16 => exact (and_fieldMask_eq_iff (w := 0) (v := 8) (u := 16) opc cw).trans (by simp [reservedZero])
  case cfg => exact (and_fieldMask_eq_iff (w := 0) (v := 15) (u := 9) opc cw).trans (by simp [reservedZero])
  case pin => exact (and_fieldMask_eq_iff (w := 0) (v := 23) (u := 1) opc cw).trans (by simp [reservedZero])
  case bit => exact (and_fieldMask_eq_iff (w := 0) (v := 13) (u := 11) opc cw).trans (by simp [reservedZero])
  case seq => exact (and_fieldMask_eq_iff (w := 3) (v := 21) (u := 0) opc cw).trans (by simp [reservedZero])
  case pix => exact (and_fieldMask_eq_iff (w := 24) (v := 0) (u := 0) opc cw).trans (by simp [reservedZero])

/-- The opcode a row of the map stands for. -/
def rowOpcode (r : OpcodeRow) : Byte := r.pattern.extractLsb' 24 8

theorem opcodeRows_mask_pattern : ∀ r ∈ opcodeRows,
    (formatOf (rowOpcode r)).map formatMask = some r.mask ∧ r.pattern = rowOpcode r ++ 0#24 := by decide

/-- A row selects a word of its opcode whose reserved field is zero. -/
theorem selects_iff {r : OpcodeRow} (hr : r ∈ opcodeRows) (cw : Word) :
    r.selects cw = true ↔
      rowOpcode r = cw.extractLsb' 24 8 ∧ ∃ f, formatOf (cw.extractLsb' 24 8) = some f ∧ reservedZero f cw = true := by
  obtain ⟨hmask, hpattern⟩ := opcodeRows_mask_pattern r hr
  obtain ⟨f, hf, hmask⟩ := Option.map_eq_some_iff.1 hmask
  rw [OpcodeRow.selects, beq_iff_eq, ← hmask, hpattern, and_formatMask_eq_iff]
  constructor
  · rintro ⟨hopc, hres⟩
    exact ⟨hopc.symm, f, hopc ▸ hf, hres⟩
  · rintro ⟨hopc, g, hg, hres⟩
    rw [← hopc, hf, Option.some_inj] at hg
    exact ⟨hopc.symm, hg ▸ hres⟩

/-- Each legal opcode has one row. -/
theorem length_filter_rowOpcode {opc : Byte} {f : Format} (h : formatOf opc = some f) :
    (opcodeRows.filter fun r => rowOpcode r = opc).length = 1 := by
  unfold formatOf at h
  split at h
  case h_23 => cases h
  all_goals rfl

theorem one_row_selects_iff (cw : Word) :
    (opcodeRows.filter fun r => r.selects cw).length = 1 ↔
      ∃ f, formatOf (cw.extractLsb' 24 8) = some f ∧ reservedZero f cw = true := by
  by_cases hf : ∃ f, formatOf (cw.extractLsb' 24 8) = some f ∧ reservedZero f cw = true
  · obtain ⟨f, hformat, -⟩ := id hf
    have hfilter : (opcodeRows.filter fun r => r.selects cw) =
        opcodeRows.filter fun r => rowOpcode r = cw.extractLsb' 24 8 :=
      List.filter_congr fun r hr => Bool.eq_iff_iff.2 (by simp [selects_iff hr, hf])
    exact iff_of_true (hfilter ▸ length_filter_rowOpcode hformat) hf
  · have hfilter : (opcodeRows.filter fun r => r.selects cw) = [] :=
      List.filter_eq_nil_iff.2 fun r hr hs => hf ((selects_iff hr cw).1 hs).2
    simp [hfilter, hf]

/-- The two formats with a value check have one opcode each, `p.cfg` and `wpix` (30_encoding R67, R70). -/
theorem checked_opcode_of_formatOf {opc : Byte} {f : Format} (h : formatOf opc = some f) :
    (opc = 0x82#8 ↔ f = .cfg) ∧ (opc = 0x0B#8 ↔ f = .pix) := by
  unfold formatOf at h
  split at h
  case h_23 => cases h
  all_goals
    cases h
    decide

theorem orderOfBits_isSome_iff (b : BitVec 3) : (orderOfBits b).isSome = true ↔ ¬ 6 ≤ b.toNat := by decide +revert

theorem valuesLegal_iff {cw : Word} {f : Format} (hf : formatOf (cw.extractLsb' 24 8) = some f) :
    valuesLegal f cw = true ↔
      ¬ (cw.extractLsb' 24 8 = 0x82#8 ∧ cw.extractLsb' 0 8 = 0#8) ∧
        ¬ (cw.extractLsb' 24 8 = 0x0B#8 ∧ 6 ≤ (cw.extractLsb' 16 3).toNat) := by
  obtain ⟨hcfg, hpix⟩ := checked_opcode_of_formatOf hf
  rw [hcfg, hpix]
  cases f <;> simp [valuesLegal, fieldImm8, orderOfBits_isSome_iff]

theorem decodeHead_ok_iff_one_row (cw : Word) :
    (∃ f, decodeHead cw = .ok f) ↔
      (opcodeRows.filter fun r => r.selects cw).length = 1 ∧
        ¬ (cw.extractLsb' 24 8 = 0x82#8 ∧ cw.extractLsb' 0 8 = 0#8) ∧
        ¬ (cw.extractLsb' 24 8 = 0x0B#8 ∧ 6 ≤ (cw.extractLsb' 16 3).toNat) := by
  rw [one_row_selects_iff]
  constructor
  · rintro ⟨f, hf⟩
    obtain ⟨hformat, hres, hval⟩ := decodeHead_eq_ok_iff.1 hf
    exact ⟨⟨f, hformat, hres⟩, (valuesLegal_iff hformat).1 hval⟩
  · rintro ⟨⟨f, hformat, hres⟩, hval⟩
    exact ⟨f, decodeHead_eq_ok_iff.2 ⟨hformat, hres, (valuesLegal_iff hformat).2 hval⟩⟩

/-- Settles O3: the decoder's head checks are the table's test and R70's, and a failed one is ILLEGAL_COMMAND. -/
theorem headWordMatchesOneRowOrIsIllegal : Obligations.HeadWordMatchesOneRowOrIsIllegal := by
  unfold Obligations.HeadWordMatchesOneRowOrIsIllegal
  intro cw
  rw [← decodeHead_ok_iff_one_row]
  cases hd : decodeHead cw with
  | ok f => exact .inl ⟨⟨f, rfl⟩, f, rfl⟩
  | error e => exact .inr ⟨fun ⟨_, hf⟩ => (by cases hf), e, rfl, decodeFault_of_decodeHead_error hd⟩

/-! ### Words that fault at decode (O8, O9) -/

/-- A decode error at CP raises its fault, with the head word in FAULT_WORD, and does nothing else (60_exceptions
R136). -/
theorem seqStep_of_decode_error {s : State} {cw : Word} {ext : List Word} {e : DecodeError} (hf : s.fault = none)
    (hp : s.phase = .idle) (hs : s.stream.drop s.cp = cw :: ext) (he : decode (cw :: ext) = .error e) :
    seqStep s = .next { s with
      fault := some (decodeFault e), faultCp := s.cp, faultWord := cw
      rtrace := s.rtrace ++ [.fault (decodeFault e)] } := by
  have hcp : s.cp < s.stream.length := by
    by_contra hge
    rw [List.drop_eq_nil_of_le (Nat.not_lt.1 hge)] at hs
    cases hs
  have hword : s.stream.getD s.cp 0#32 = cw := by
    rw [List.getD_eq_getElem?_getD, ← List.head?_drop, hs]
    rfl
  have hfetch : fetch s = some (.error e) := by rw [fetch, if_pos hcp, hs, he]
  simp only [seqStep, hf, hp, hfetch, State.raiseFault, hword]

/-- Settles O8: the two ways a word is illegal are two of the decoder's cases. -/
theorem illegalWordsFaultAtDecode : Obligations.IllegalWordsFaultAtDecode := by
  unfold Obligations.IllegalWordsFaultAtDecode
  rintro s cw ext hf hp hs (⟨e, he⟩ | ⟨hpix, hlen, hext3⟩)
  · rw [← decodeFault_of_decodeHead_error he]
    exact seqStep_of_decode_error hf hp hs (decode_of_head_error he ext)
  · exact seqStep_of_decode_error hf hp hs (decode_of_reservedExt3 hpix hlen hext3)

/-- Settles O9: the head word of a well-formed command passes its checks, and the words after it are too few. -/
theorem truncatedCommandFaultsAtDecode : Obligations.TruncatedCommandFaultsAtDecode := by
  unfold Obligations.TruncatedCommandFaultsAtDecode
  intro s i hf hp hwf hword hlen
  obtain ⟨hcp, hget⟩ := List.getElem?_eq_some_iff.1 hword
  have hs : s.stream.drop s.cp = encodeHead i :: s.stream.drop (s.cp + 1) := by
    rw [List.drop_eq_getElem_cons hcp, hget]
  refine seqStep_of_decode_error hf hp hs (decode_of_short (decodeHead_encodeHead hwf) ?_)
  rw [formatExt_commandFormat, List.length_drop]
  omega

/-! ### Words of the spec's vectors (O4) -/

/-- Settles O4: the decoder and the assembler evaluate to the spec's words, the operands of a pseudo-instruction being
carried along. -/
theorem vectorWordsDecode : Obligations.VectorWordsDecode := by
  unfold Obligations.VectorWordsDecode
  refine ⟨rfl, rfl, rfl, rfl, rfl, rfl, rfl, rfl, rfl, rfl, rfl, rfl, ?_, rfl, rfl, ?_, ?_⟩
  · exact fun v n => rfl
  · exact fun b => rfl
  · exact fun w => rfl

end Sys2Proof.Proofs
end

section
/-! The execution family (40_execution), part 1: the register trace of a command, its polls apart, is its rule's script.
Each micro-program records, µop by µop, what `rest` says it has left. -/

namespace Sys2Proof.Proofs

open Sys2Proof Sys2Proof.Machine Sys2Proof.Safety

/-! ### The events of a µop -/

@[simp] theorem noPolls_append (r₁ r₂ : List REvent) : noPolls (r₁ ++ r₂) = noPolls r₁ ++ noPolls r₂ :=
  List.filter_append r₁ r₂

/-- What a completed µop adds to the register trace, its poll apart (40_execution R86-R99); `w16` is CTRL.W16 before
it. -/
def uopEvents (u : Uop) (w16 : Bool) : List REvent :=
  match u with
  | .spinTxe | .spinIdle => []
  | .setCfg w d => [.cfg w d]
  | .writeTdr v => [.queue v w16]
  | .enable => [.enable]
  | .disable => [.disable]
  | .unlock => [.unlock]
  | .setMaster => [.master]
  | .pinOut p => [.pinOut p]
  | .pinHigh p => [.pinHigh p]
  | .pinLow p => [.pinLow p]
  | .select => [.select]
  | .release => [.release]
  | .postBlock n => [.postBlock n]

theorem noPolls_runUop {u : Uop} {s t : State} (hd : runUop u s = .done t) :
    noPolls t.rtrace = noPolls s.rtrace ++ uopEvents u s.w16 := by
  have h := runUop_done hd
  cases u <;> simp_all [uopEvents, noPolls, isNoPoll]

theorem uopEvents_dataUop (b w16 : Bool) : uopEvents (dataUop b) w16 = [dataEvent b] := by cases b <;> rfl

/-! ### One µop along the script -/

/-- The µop at position `k` records the first of the events left there, and goes on where its program can be, with the
other events left whatever CTRL.W16 then is (40_execution R81). -/
def Follows (c : Instr) (mem : List Host.Cell) (w16 : Bool) (k : Nat) (l : Locals) (u : Uop) (k' : Nat) (l' : Locals) :
    Prop :=
  localsOk c k' l' ∧ ∀ w, rest c mem w16 k l = uopEvents u w16 ++ rest c mem w k' l'

/-- What is assumed at a position: its loop state, and before a write the body's width. -/
def ReadyAt (c : Instr) (w16 : Bool) (k : Nat) (l : Locals) : Prop :=
  localsOk c k l ∧ (writeAt c k = true → w16 = bodyWidth c)

section
variable {mem : List Host.Cell} {w16 : Bool} {k k' : Nat} {l l' : Locals} {u : Uop}

theorem initProgram_follows (h : initProgram k l = .uop u k' l') : Follows .init mem w16 k l u k' l' := by
  unfold initProgram at h
  split at h <;> cases h <;> exact ⟨trivial, fun _ => rfl⟩

/-- A body that writes one value with its own width (43_queuing R123, R124). -/
theorem writeProgram_follows {c : Instr} {w : Bool} {v : Half} (hlocals : ∀ k l, localsOk c k l)
    (hrest : ∀ w16 k l, rest c mem w16 k l = List.drop (k - 1) [.cfg w Config.divT, .queue v w])
    (hw : k = 2 → w16 = w) (h : writeProgram w v k l = .uop u k' l') : Follows c mem w16 k l u k' l' := by
  unfold writeProgram at h
  split at h <;> cases h <;> refine ⟨hlocals _ _, fun _ => ?_⟩ <;> rw [hrest, hrest]
  case h_3 => cases hw rfl; rfl
  all_goals rfl

theorem bitProgram_follows {b : Byte} {x : BitVec 3} (h : bitProgram b x k l = .uop u k' l') :
    Follows (.wbit b x) mem w16 k l u k' l' := by
  unfold bitProgram at h
  split at h <;> cases h <;> refine ⟨trivial, fun _ => ?_⟩
  case h_3 => rw [uopEvents_dataUop]; rfl
  all_goals rfl


/-- A command of one µop. -/
theorem singleUop_follows {c : Instr} {v : Uop} (hlocals : ∀ k l, localsOk c k l)
    (hrest : ∀ w k l, rest c mem w k l = restOne (uopEvents v w) k) (h : singleUop v k l = .uop u k' l') :
    Follows c mem w16 k l u k' l' := by
  unfold singleUop at h
  split at h <;> cases h
  refine ⟨hlocals _ _, fun _ => ?_⟩
  simp [hrest, restOne]

/-! ### The byte loops -/

theorem bytesEvents_cons (b : Byte) (bs : List Byte) : bytesEvents (b :: bs) = byteEvents b ++ bytesEvents bs :=
  List.flatMap_cons

/-- One byte of a repeated run, and the rest of it. -/
theorem bytesEvents_replicate {b : Byte} {i n : Nat} (h : i < n) :
    bytesEvents (List.replicate (n - i) b) = byteEvents b ++ bytesEvents (List.replicate (n - (i + 1)) b) := by
  obtain ⟨m, hm⟩ : ∃ m, n - i = m + 1 := ⟨n - i - 1, by omega⟩
  rw [hm, List.replicate_succ, bytesEvents_cons, show n - (i + 1) = m by omega]

/-- The loop test of `wrep` (44_bracketed R126). -/
theorem repHead_uop {n : Nat} (h : repHead n l = .uop u k' l') : l.i < n ∧ u = .spinTxe ∧ k' = 1 ∧ l' = l := by
  unfold repHead at h
  split at h <;> cases h
  simp [*]

theorem repProgram_follows {b : Byte} {n : Word} (hr : ReadyAt (.wrep b n) w16 k l)
    (h : repProgram b n.toNat k l = .uop u k' l') : Follows (.wrep b n) mem w16 k l u k' l' := by
  obtain ⟨⟨hi, hk⟩, hw⟩ := hr
  unfold repProgram at h
  split at h
  case h_1 =>
    obtain ⟨hlt, rfl, rfl, rfl⟩ := repHead_uop h
    exact ⟨⟨fun _ => hlt, by omega⟩, fun _ => bytesEvents_replicate hlt⟩
  case h_2 => cases h; exact ⟨⟨fun _ => hi (by omega), by omega⟩, fun _ => rfl⟩
  case h_3 => cases h; cases hw rfl; exact ⟨⟨fun _ => hi (by omega), by omega⟩, fun _ => rfl⟩
  case h_4 h0 h1 h2 =>
    obtain rfl : k = 3 := by simp only [imp_false] at h0 h1 h2; omega
    obtain ⟨hlt, rfl, rfl, rfl⟩ := repHead_uop h
    exact ⟨⟨fun _ => hlt, by omega⟩, fun _ => bytesEvents_replicate hlt⟩

/-- The loop test of `wbv`: the next byte, or the release (44_bracketed R127). -/
theorem bvHead_follows {b : Byte} {n : Word} {l₀ : Locals}
    (hrest : rest (.wbv b n) mem w16 k l₀ = bytesEvents (List.replicate (n.toNat - l.i) b) ++ [.release])
    (h : bvHead n.toNat l = .uop u k' l') : Follows (.wbv b n) mem w16 k l₀ u k' l' := by
  obtain ⟨rfl, ⟨hlt, rfl, rfl⟩ | ⟨hge, rfl, rfl⟩⟩ := bvHead_uop h
  · exact ⟨⟨by omega, fun _ => hlt⟩, fun _ => by rw [hrest, bytesEvents_replicate hlt]; rfl⟩
  · exact ⟨⟨by omega, by omega⟩, fun _ => by rw [hrest, Nat.sub_eq_zero_of_le (Nat.not_lt.1 hge)]; rfl⟩

theorem bvProgram_follows {b : Byte} {n : Word} (hr : ReadyAt (.wbv b n) w16 k l)
    (h : bvProgram b n.toNat k l = .uop u k' l') : Follows (.wbv b n) mem w16 k l u k' l' := by
  obtain ⟨⟨hz, hi⟩, hw⟩ := hr
  unfold bvProgram at h
  split at h
  case h_1 =>
    cases h
    have hz : l.i = 0 := hz (by omega)
    exact ⟨⟨fun _ => hz, by omega⟩, fun _ => by simp [rest, script, uopEvents, hz]⟩
  case h_2 | h_5 => exact bvHead_follows rfl h
  case h_3 => cases h; exact ⟨⟨by omega, fun _ => hi (by omega)⟩, fun _ => rfl⟩
  case h_4 => cases h; cases hw rfl; exact ⟨⟨by omega, fun _ => hi (by omega)⟩, fun _ => rfl⟩
  case h_6 => cases h

/-! ### The post-block bytes -/

/-- Writing a non-empty list of bytes starts with its first one. -/
theorem bytesEvents_of_ne_nil {bs : List Byte} (h : bs ≠ []) :
    bytesEvents bs = byteEvents (bs.headD 0#8) ++ bytesEvents bs.tail := by
  cases bs with
  | nil => exact absurd rfl h
  | cons b bs => exact bytesEvents_cons b bs

/-- The loop test over the post-block bytes: the next byte's spin, or the drain before the release (44_bracketed
R128). -/
theorem postHead_follows {c : Instr} {kByte kRelease : Nat} {l₀ : Locals}
    (hbyte : l.post ≠ [] → localsOk c kByte l ∧ ∀ w, rest c mem w kByte l = bytesEvents l.post ++ [.release])
    (hrelease : localsOk c kRelease l ∧ ∀ w, rest c mem w kRelease l = [.release])
    (hrest : rest c mem w16 k l₀ = bytesEvents l.post ++ [.release])
    (h : postHead kByte kRelease l = .uop u k' l') : Follows c mem w16 k l₀ u k' l' := by
  obtain ⟨rfl, ⟨hnil, rfl, rfl⟩ | ⟨hne, rfl, rfl⟩⟩ := postHead_uop h
  · exact ⟨hrelease.1, fun w => by rw [hrest, hnil, hrelease.2 w]; rfl⟩
  · exact ⟨(hbyte hne).1, fun w => by rw [hrest, (hbyte hne).2 w]; rfl⟩

/-! ### `wseq` -/

/-- The next window byte, adjusted, and those after it. -/
theorem bytesEvents_seqBytes {t : BitVec 3} {a : Word} {i n : Nat} (h : i < n) :
    bytesEvents (seqBytes mem t a i (n - i)) =
      byteEvents (Config.adjust t ((windowByte mem a i).getD 0#8)) ++
        bytesEvents (seqBytes mem t a (i + 1) (n - (i + 1))) := by
  obtain ⟨m, hm⟩ : ∃ m, n - i = m + 1 := ⟨n - i - 1, by omega⟩
  rw [hm, seqBytes, bytesEvents_cons, show n - (i + 1) = m by omega]

/-- The loop test of `wseq`: the next byte's spin, or the hook (44_bracketed R128). -/
theorem seqHead_follows {t : BitVec 3} {a n : Word} {l₀ : Locals}
    (hrest : rest (.wseq t a n) mem w16 k l₀ = bytesEvents (seqBytes mem t a l.i (n.toNat - l.i)) ++ tailEvents t n)
    (h : seqHead mem a n l = .uop u k' l') : Follows (.wseq t a n) mem w16 k l₀ u k' l' := by
  obtain ⟨rfl, ⟨hlt, rfl, rfl⟩ | ⟨hge, rfl, rfl⟩⟩ := seqHead_uop h
  · exact ⟨⟨by omega, fun _ => hlt, by omega⟩, fun _ => hrest⟩
  · exact ⟨⟨by omega, by omega, by omega⟩, fun _ => by rw [hrest, Nat.sub_eq_zero_of_le (Nat.not_lt.1 hge)]; rfl⟩

theorem seqProgram_follows {t : BitVec 3} {a n : Word} (hr : ReadyAt (.wseq t a n) w16 k l)
    (h : seqProgram mem t a n k l = .uop u k' l') : Follows (.wseq t a n) mem w16 k l u k' l' := by
  obtain ⟨⟨hz, hi, hpost⟩, hw⟩ := hr
  unfold seqProgram at h
  split at h
  case h_1 =>
    cases h
    have hz : l.i = 0 := hz (by omega)
    exact ⟨⟨fun _ => hz, by omega, by omega⟩, fun _ => by simp [rest, script, uopEvents, hz]⟩
  case h_2 | h_5 => exact seqHead_follows rfl h
  case h_3 =>
    cases h
    have hi : l.i < n.toNat := hi (by omega)
    exact ⟨⟨by omega, fun _ => hi, by omega⟩, fun _ => by simp [rest, bytesEvents_seqBytes hi, uopEvents, byteEvents]⟩
  case h_4 =>
    have hi : l.i < n.toNat := hi (by omega)
    split at h <;> cases h
    next hb =>
    cases hw rfl
    exact ⟨⟨by omega, fun _ => hi, by omega⟩,
      fun _ => by simp [rest, bytesEvents_seqBytes hi, uopEvents, byteEvents, hb, bodyWidth]⟩
  case h_6 | h_9 =>
    exact postHead_follows (fun hne => ⟨⟨by omega, by omega, fun _ => hne⟩, fun _ => rfl⟩)
      ⟨⟨by omega, by omega, by omega⟩, fun _ => rfl⟩ rfl h
  case h_7 =>
    cases h
    have hpost : l.post ≠ [] := hpost (by omega)
    exact ⟨⟨by omega, by omega, fun _ => hpost⟩,
      fun _ => by simp [rest, bytesEvents_of_ne_nil hpost, uopEvents, byteEvents]⟩
  case h_8 =>
    cases h
    cases hw rfl
    have hpost : l.post ≠ [] := hpost (by omega)
    exact ⟨⟨by omega, by omega, fun _ => hpost⟩,
      fun _ => by simp [rest, bytesEvents_of_ne_nil hpost, uopEvents, byteEvents, postWrite, bodyWidth]⟩
  case h_10 => cases h; exact ⟨⟨by omega, by omega, by omega⟩, fun _ => rfl⟩
  case h_11 => cases h

/-! ### `wpix` -/

theorem pixStep_pos (a : PixArgs) : 0 < pixStep a := Nat.add_pos_left (by decide) _

/-- The next pixel's events, its framing bit first, and those after it (46_pixel_stream R130 step 3). -/
theorem restPixels_eq {a : PixArgs} (hrem : 0 < l.rem) (hmod : l.rem % pixStep a = 0) :
    restPixels a l.sigma l.rem = pixFrame a ++ restTriplet a l 0 := by
  have hle : pixStep a ≤ l.rem := Nat.le_of_dvd hrem (Nat.dvd_of_mod_eq_zero hmod)
  simp [restPixels, restTriplet, Nat.div_eq_sub_div (pixStep_pos a) hle, pixEvents]

/-- The loop test of `wpix`: the next pixel's framing bit or first byte, or the hook (46_pixel_stream R130). -/
theorem pixHead_follows {a : PixArgs} {l₀ : Locals} (hlen : a.len.toNat % pixStep a = 0)
    (hmod : l.rem % pixStep a = 0) (hrest : rest (.wpix a) mem w16 k l₀ = restPixels a l.sigma l.rem)
    (h : pixHead a l = .uop u k' l') : Follows (.wpix a) mem w16 k l₀ u k' l' := by
  obtain ⟨rfl, ⟨hrem, hsbf, rfl, rfl⟩ | ⟨hrem, hsbf, rfl, rfl⟩ | ⟨hrem, rfl, rfl⟩⟩ := pixHead_uop h
  · refine ⟨⟨hlen, fun _ => ⟨hmod, hrem⟩, fun _ => hsbf, by omega⟩, fun _ => ?_⟩
    rw [hrest, restPixels_eq hrem hmod, pixFrame, if_pos hsbf]
    rfl
  · refine ⟨⟨hlen, fun _ => ⟨hmod, hrem⟩, by omega, by omega⟩, fun _ => ?_⟩
    rw [hrest, restPixels_eq hrem hmod, pixFrame, if_neg (by simp [hsbf])]
    rfl
  · refine ⟨⟨hlen, by omega, by omega, by omega⟩, fun _ => ?_⟩
    rw [hrest, hrem, restPixels, Nat.zero_div]
    rfl

/-- The loop state stays in order at a position inside the same loops. -/
theorem localsOk_wpix_of_region {a : PixArgs} (h : localsOk (.wpix a) k l)
    (hregion : (2 ≤ k' ∧ k' ≤ 16 → 2 ≤ k ∧ k ≤ 16) ∧ (3 ≤ k' ∧ k' ≤ 8 → 3 ≤ k ∧ k ≤ 8) ∧
      (18 ≤ k' ∧ k' ≤ 20 → 18 ≤ k ∧ k ≤ 20)) : localsOk (.wpix a) k' l := by
  obtain ⟨hlen, hrem, hsbf, hpost⟩ := h
  obtain ⟨hpixel, hframe, hhook⟩ := hregion
  exact ⟨hlen, fun hk => hrem (hpixel hk), fun hk => hsbf (hframe hk), fun hk => hpost (hhook hk)⟩

/-- A `wpix` opens its source on the whole window (46_pixel_stream R130 step 2). -/
theorem pixOpen_follows {a : PixArgs} {w : List Byte} {l₀ : Locals} (hlen : a.len.toNat % pixStep a = 0)
    (hwindow : window mem a.addr a.len = some w)
    (h : pixHead a { l₀ with sigma := pixSource a w, rem := a.len.toNat } = .uop u k' l') :
    Follows (.wpix a) mem w16 1 l₀ u k' l' :=
  pixHead_follows hlen hlen (by simp [rest, script, hwindow, restPixels]) h

theorem pixProgram_follows {a : PixArgs} (hr : ReadyAt (.wpix a) w16 k l)
    (h : pixProgram mem a k l = .uop u k' l') : Follows (.wpix a) mem w16 k l u k' l' := by
  obtain ⟨hl, hw⟩ := hr
  have ⟨hlen, hrem, _, hpost⟩ := hl
  unfold pixProgram at h
  split at h
  case h_1 =>
    cases h
    refine ⟨localsOk_wpix_of_region hl (by omega), fun _ => ?_⟩
    simp only [rest, script]
    split <;> rfl
  case h_2 =>
    split at h
    · cases h
    · next hwindow => exact pixOpen_follows hlen hwindow h
  case h_3 =>
    obtain ⟨hmod, -⟩ := hrem (by omega)
    exact pixHead_follows hlen (Nat.sub_mod_eq_zero_of_mod_eq (by rw [hmod, Nat.mod_self])) rfl h
  case h_5 =>
    cases h
    exact ⟨localsOk_wpix_of_region hl (by omega), fun _ => by rw [uopEvents_dataUop]; rfl⟩
  case h_11 | h_14 | h_17 =>
    cases h
    cases hw rfl
    exact ⟨localsOk_wpix_of_region hl (by omega), fun _ => rfl⟩
  case h_18 | h_21 =>
    exact postHead_follows (fun hne => ⟨⟨hlen, by omega, by omega, fun _ => hne⟩, fun _ => rfl⟩)
      ⟨⟨hlen, by omega, by omega, by omega⟩, fun _ => rfl⟩ rfl h
  case h_19 =>
    cases h
    exact ⟨localsOk_wpix_of_region hl (by omega),
      fun _ => by simp [rest, bytesEvents_of_ne_nil (hpost (by omega)), uopEvents, byteEvents]⟩
  case h_20 =>
    cases h
    cases hw rfl
    exact ⟨localsOk_wpix_of_region hl (by omega),
      fun _ => by simp [rest, bytesEvents_of_ne_nil (hpost (by omega)), uopEvents, byteEvents, postWrite, bodyWidth]⟩
  case h_23 => cases h
  all_goals
    cases h
    exact ⟨localsOk_wpix_of_region hl (by omega), fun _ => rfl⟩

/-! ### Any command -/

theorem commandProgram_follows {c : Instr} (hr : ReadyAt c w16 k l) (h : commandProgram c mem k l = .uop u k' l') :
    Follows c mem w16 k l u k' l' := by
  cases c
  case init => exact initProgram_follows h
  case wbyte | wword =>
    obtain ⟨-, hw⟩ := hr
    exact writeProgram_follows (fun _ _ => trivial) (fun _ _ _ => rfl) (fun hk => hw (by simp [writeAt, hk])) h
  case wrep => exact repProgram_follows hr h
  case wbv => exact bvProgram_follows hr h
  case wseq => exact seqProgram_follows hr h
  case wbit => exact bitProgram_follows h
  case wpix => exact pixProgram_follows hr h
  all_goals exact singleUop_follows (fun _ _ => trivial) (fun _ _ _ => rfl) h

/-! ### The end of a program -/

/-- A loop test that reads no memory and does not end its command always asks for a µop. -/
theorem bvHead_is_uop {n : Nat} : bvHead n l ≠ .retire ∧ bvHead n l ≠ .blocked := by
  unfold bvHead
  split <;> exact ⟨nofun, nofun⟩

theorem postHead_is_uop {kByte kRelease : Nat} :
    postHead kByte kRelease l ≠ .retire ∧ postHead kByte kRelease l ≠ .blocked := by
  unfold postHead
  split <;> exact ⟨nofun, nofun⟩

theorem pixHead_is_uop {a : PixArgs} : pixHead a l ≠ .retire ∧ pixHead a l ≠ .blocked := by
  unfold pixHead
  repeat' split
  all_goals exact ⟨nofun, nofun⟩

theorem seqHead_ne_retire {a n : Word} : seqHead mem a n l ≠ .retire := by
  unfold seqHead
  repeat' split
  all_goals nofun

theorem bvProgram_retire {b : Byte} {n : Nat} (h : bvProgram b n k l = .retire) : 5 ≤ k := by
  unfold bvProgram at h
  split at h
  case h_2 | h_5 => exact absurd h bvHead_is_uop.1
  case h_6 => simp only [imp_false] at *; omega
  all_goals cases h

theorem seqProgram_retire {t : BitVec 3} {a n : Word} (h : seqProgram mem t a n k l = .retire) : 10 ≤ k := by
  unfold seqProgram at h
  split at h
  case h_2 | h_5 => exact absurd h seqHead_ne_retire
  case h_4 => split at h <;> cases h
  case h_6 | h_9 => exact absurd h postHead_is_uop.1
  case h_11 => simp only [imp_false] at *; omega
  all_goals cases h

theorem pixProgram_retire {a : PixArgs} (h : pixProgram mem a k l = .retire) : 22 ≤ k := by
  unfold pixProgram at h
  split at h
  case h_2 =>
    split at h
    · cases h
    · exact absurd h pixHead_is_uop.1
  case h_3 => exact absurd h pixHead_is_uop.1
  case h_18 | h_21 => exact absurd h postHead_is_uop.1
  case h_23 => simp only [imp_false] at *; omega
  all_goals cases h

theorem initProgram_retire (h : initProgram k l = .retire) : 7 ≤ k := by
  unfold initProgram at h
  split at h
  case h_8 => simp only [imp_false] at *; omega
  all_goals cases h

theorem writeProgram_retire {w : Bool} {v : Half} (h : writeProgram w v k l = .retire) : 3 ≤ k := by
  unfold writeProgram at h
  split at h
  case h_4 => simp only [imp_false] at *; omega
  all_goals cases h

theorem bitProgram_retire {b : Byte} {x : BitVec 3} (h : bitProgram b x k l = .retire) : 6 ≤ k := by
  unfold bitProgram at h
  split at h
  case h_7 => simp only [imp_false] at *; omega
  all_goals cases h

theorem singleUop_retire {v : Uop} (h : singleUop v k l = .retire) : 1 ≤ k := by
  unfold singleUop at h
  split at h
  case h_2 => simp only [imp_false] at *; omega
  all_goals cases h

/-- A command has no µop left from its last position on, and retires nowhere else; the loop of `wrep` apart
(40_execution R82). -/
theorem commandProgram_retire_iff {c : Instr} (hc : ∀ b n, c ≠ .wrep b n) :
    commandProgram c mem k l = .retire ↔ lastPos c ≤ k := by
  refine ⟨fun h => ?_, fun h => ?_⟩
  · cases c
    case init => exact initProgram_retire h
    case wbyte | wword => exact writeProgram_retire h
    case wrep => exact absurd rfl (hc _ _)
    case wbv => exact bvProgram_retire h
    case wseq => exact seqProgram_retire h
    case wbit => exact bitProgram_retire h
    case wpix => exact pixProgram_retire h
    all_goals exact singleUop_retire h
  · obtain ⟨m, rfl⟩ := Nat.exists_eq_add_of_le' h
    cases c
    case wrep => exact absurd rfl (hc _ _)
    all_goals rfl

/-- The loop test of `wrep` retires with every byte written (44_bracketed R126). -/
theorem repHead_retire_iff {n : Nat} : repHead n l = .retire ↔ n ≤ l.i := by
  unfold repHead
  split <;> simp <;> omega

/-- Where a program has no µop left, its command has no event left. -/
theorem rest_of_lastPos_le {c : Instr} (hc : ∀ b n, c ≠ .wrep b n) (hk : lastPos c ≤ k) :
    rest c mem w16 k l = [] := by
  obtain ⟨m, rfl⟩ := Nat.exists_eq_add_of_le' hk
  cases c
  case init | wbyte | wword | wbit => exact List.drop_eq_nil_of_le (by simp [lastPos, script, byteEvents, bitEvents])
  case wrep => exact absurd rfl (hc _ _)
  all_goals rfl

/-- `wrep` retires at its loop test, no byte being left (44_bracketed R126). -/
theorem rest_wrep_of_retire {b : Byte} {n : Word} (hl : localsOk (.wrep b n) k l)
    (h : repProgram b n.toNat k l = .retire) : rest (.wrep b n) mem w16 k l = [] := by
  obtain ⟨-, hk⟩ := hl
  unfold repProgram at h
  split at h
  case h_1 =>
    have hge := repHead_retire_iff.1 h
    simp [rest, bytesEvents, Nat.sub_eq_zero_of_le hge]
  case h_2 | h_3 => cases h
  case h_4 h0 h1 h2 =>
    obtain rfl : k = 3 := by simp only [imp_false] at h0 h1 h2; omega
    have hge : n.toNat ≤ l.i + 1 := repHead_retire_iff.1 h
    simp [rest, bytesEvents, Nat.sub_eq_zero_of_le hge]

theorem rest_of_retire {c : Instr} (hl : localsOk c k l) (h : commandProgram c mem k l = .retire) :
    rest c mem w16 k l = [] := by
  by_cases hc : ∃ b n, c = .wrep b n
  · obtain ⟨b, n, rfl⟩ := hc
    exact rest_wrep_of_retire hl h
  · have hc : ∀ b n, c ≠ .wrep b n := fun b n e => hc ⟨b, n, e⟩
    exact rest_of_lastPos_le hc ((commandProgram_retire_iff hc).1 h)

end

/-! ### One transition along the script (O55) -/

theorem readyAt_of_running {s : State} {c : Instr} {k : Nat} {l : Locals} (h : Progressing s) (hw : WriteOk s)
    (hp : s.phase = .running c k l) : ReadyAt c s.w16 k l :=
  ⟨h c k l hp, fun hat => ((hw c k l hp).2 hat).2.1⟩

/-- A `wpix` that starts has passed PARTIAL_PIXEL (46_pixel_stream R130). -/
theorem len_mod_pixStep_of_pixCheck {a : PixArgs} {s : State} (h : pixCheck a s = none) :
    a.len.toNat % pixStep a = 0 := by
  by_contra hne
  unfold pixCheck at h
  rw [partialCheck, if_neg hne] at h
  cases hi : initialisedCheck s <;> cases hr : rangeCheck a.addr a.len <;> simp [firstFault, hi, hr] at h

/-- A command starts in order (40_execution R80, log 16). -/
theorem localsOk_start {c : Instr} {s : State} (h : commandCheck c s = none) : localsOk c 0 Locals.start := by
  cases c
  case wrep => exact ⟨by omega, by omega⟩
  case wbv => exact ⟨fun _ => rfl, by omega⟩
  case wseq => exact ⟨fun _ => rfl, by omega, by omega⟩
  case wpix a => exact ⟨len_mod_pixStep_of_pixCheck h, by omega, by omega, by omega⟩
  all_goals trivial

theorem rest_start (c : Instr) (mem : List Host.Cell) (w16 : Bool) :
    rest c mem w16 0 Locals.start = script c mem w16 := by
  cases c <;> rfl

theorem progressing_transition {s t : State} (h : Progressing s) (hw : WriteOk s) (ht : Transition s t) :
    Progressing t := by
  cases ht with
  | fault c => exact h
  | start i _ _ _ hc =>
    intro c k l hp
    cases hp
    exact localsOk_start hc
  | retire =>
    rw [commandRetire_eq]
    intro c k l hp
    cases hp
  | uop _ hp hm =>
    intro c k l hp'
    cases hp'
    exact (commandProgram_follows (readyAt_of_running h hw hp) hm).1
  | spin => exact h
  | shift r => exact h
  | load w => exact h

/-- What becomes of a running command's script: a step records the next event of it or none, retires with the whole
script recorded, or faults. -/
def KeepsScript (s t : State) : Prop :=
  ∀ c k l, s.phase = .running c k l →
    (∃ k' l', t.phase = .running c k' l' ∧
      noPolls t.rtrace ++ rest c t.mem t.w16 k' l' = noPolls s.rtrace ++ rest c s.mem s.w16 k l) ∨
    (t.phase = .idle ∧ rest c s.mem s.w16 k l = [] ∧ noPolls t.rtrace = noPolls s.rtrace) ∨
    (∃ e, t.fault = some e ∧ noPolls t.rtrace = noPolls s.rtrace ++ [.fault e])

theorem keepsScript_transition {s t : State} (h : Progressing s) (hw : WriteOk s) (ht : Transition s t) :
    KeepsScript s t := by
  intro c k l hp
  cases ht with
  | fault c => exact .inr (.inr ⟨c, rfl, by simp [noPolls, isNoPoll]⟩)
  | start i _ hidle =>
    rw [hp] at hidle
    cases hidle
  | retire _ hp' hm =>
    obtain ⟨rfl, rfl, rfl⟩ := Phase.running.inj (hp.symm.trans hp')
    rw [commandRetire_eq]
    exact .inr (.inl ⟨rfl, rest_of_retire (h c k l hp) hm, rfl⟩)
  | @uop i _ k' _ l' u t _ hp' hm hd =>
    obtain ⟨rfl, rfl, rfl⟩ := Phase.running.inj (hp.symm.trans hp')
    obtain ⟨-, hrest⟩ := commandProgram_follows (readyAt_of_running h hw hp) hm
    refine .inl ⟨k', l', rfl, ?_⟩
    rw [State.goto_rtrace, State.goto_mem, State.goto_w16, noPolls_runUop hd, (runUop_frame (.inl hd)).mem,
      hrest t.w16, List.append_assoc]
  | spin => exact .inl ⟨k, l, hp, by simp [noPolls, isNoPoll, State.pollEvent]⟩
  | shift r => exact .inl ⟨k, l, hp, rfl⟩
  | load w => exact .inl ⟨k, l, hp, rfl⟩

/-- The decode step records nothing and leaves the whole script. -/
def StartsScript (s t : State) : Prop :=
  s.phase = .idle → ∀ c k l, t.phase = .running c k l →
    noPolls t.rtrace = noPolls s.rtrace ∧ rest c t.mem t.w16 k l = script c s.mem s.w16

theorem startsScript_transition {s t : State} (ht : Transition s t) : StartsScript s t := by
  intro hidle c k l hp
  cases ht with
  | start i =>
    cases hp
    exact ⟨rfl, rest_start c s.mem s.w16⟩
  | fault | spin | shift | load => cases hidle.symm.trans hp
  | retire _ hp' | uop _ hp' => cases hidle.symm.trans hp'

/-- Settles O55: each µop records the first of the events its command has left, and a command retires with none left. -/
theorem everyCommandFollowsItsScript : Obligations.EveryCommandFollowsItsScript := by
  unfold Obligations.EveryCommandFollowsItsScript
  intro s t h hw hstep
  exact ⟨of_step hstep (fun _ hu => hu) fun _ => progressing_transition h hw,
    of_step (P := KeepsScript s) hstep (fun _ hu => hu) fun _ => keepsScript_transition h hw,
    of_step (P := StartsScript s) hstep (fun _ hu => hu) fun _ => startsScript_transition⟩

end Sys2Proof.Proofs
end

section
/-! The execution family (40_execution), part 2: which steps the block has and where it has none; the decode step, the
retire step and faults, each for every command at once. -/

namespace Sys2Proof.Proofs

open Sys2Proof Sys2Proof.Machine Sys2Proof.Safety

/-! ### The decode step (O11) -/

/-- P-class commands are not checked at decode (41_primitives R107). -/
theorem commandCheck_of_pClass {i : Instr} (s : State) (h : i.isSClass = false) : commandCheck i s = none := by
  cases i
  case pSpintxe | pSpinidle | pCfg | pWtdr | pEn | pDis | pUnlock | pMaster | pPinout | pPinhi | pPinlo => rfl
  all_goals simp [Instr.isSClass, Instr.opcode] at h

theorem partialCheck_of_eq {p : PixArgs} (h : p.len.toNat % (3 + p.skip.toNat) = 0) : partialCheck p = none := if_pos h

/-- After INIT the S-class commands start, `wseq` and `wpix` with a window that passes its checks (42_init_select R119,
20_memory R41, 46_pixel_stream R130). -/
theorem commandCheck_of_initDone {i : Instr} {s : State} (hi : i ≠ .init) (hdone : s.initDone = true)
    (hseq : ∀ t a n, i = .wseq t a n → a.toNat + n.toNat ≤ 2 ^ 32)
    (hpix : ∀ p, i = .wpix p → p.addr.toNat + p.len.toNat ≤ 2 ^ 32 ∧ p.len.toNat % (3 + p.skip.toNat) = 0) :
    commandCheck i s = none := by
  have hinit := initialisedCheck_of_initDone hdone
  cases i
  case init => exact absurd rfl hi
  case sel | rel | wbyte | wword | widle | wrep | wbv | wbit => exact hinit
  case wseq t a n => simp only [commandCheck, hinit, rangeCheck_of_le (hseq t a n rfl), firstFault]
  case wpix p =>
    obtain ⟨hrange, hwhole⟩ := hpix p rfl
    simp only [commandCheck, pixCheck, hinit, rangeCheck_of_le hrange, partialCheck_of_eq hwhole, firstFault]
  all_goals rfl

/-- Settles O11: in each of the three cases no check fails. -/
theorem decodeStepStartsTheCommand : Obligations.DecodeStepStartsTheCommand := by
  unfold Obligations.DecodeStepStartsTheCommand
  intro i s hp h
  have hcheck : commandCheck i s = none := by
    obtain hP | ⟨rfl, hinit⟩ | ⟨-, hi, hdone, hseq, hpix⟩ := h
    · exact commandCheck_of_pClass s hP
    · simp [commandCheck, reinitCheck, hinit]
    · exact commandCheck_of_initDone hi hdone hseq hpix
  rw [exec_idle hp, hcheck]
  rfl

/-! ### The retire step (O13) -/

theorem exec_of_retire {i : Instr} {s : State} {k : Nat} {l : Locals} (hp : s.phase = .running i k l)
    (hm : commandProgram i s.mem k l = .retire) : exec i s = .next (commandRetire i s) := by
  rw [exec_running hp, hm]

/-- Settles O13: the positions without a µop are those from the last one on, and the loop tests of `wrep`. -/
theorem retireAdvancesTheCommandPointer : Obligations.RetireAdvancesTheCommandPointer := by
  unfold Obligations.RetireAdvancesTheCommandPointer
  refine ⟨fun i s k l hp hk hi => ?_, fun b n s l h => ?_⟩
  · rw [exec_of_retire hp ((commandProgram_retire_iff hi).2 hk), commandRetire_eq]
    by_cases h : i = .init <;> simp [h]
  · suffices hretire : exec (.wrep b n) s = .next (commandRetire (.wrep b n) s) from hretire
    obtain ⟨hp, hge⟩ | ⟨hp, hge⟩ := h
    · exact exec_of_retire hp (repHead_retire_iff.2 hge)
    · exact exec_of_retire hp ((repHead_retire_iff (l := { l with i := l.i + 1 })).2 hge)

/-! ### Faults (O14) -/

/-- Settles O14: only `raiseFault` sets FAULT. -/
theorem faultsArePrecise : Obligations.FaultsArePrecise := by
  unfold Obligations.FaultsArePrecise
  intro i s t c hf hexec ht
  have hkept : t.fault ≠ s.fault := by simp [hf, ht]
  have raised {e : FaultCode} (h : t = s.raiseFault e) : t = afterFault s c := by
    subst h
    cases ht
    rfl
  obtain ⟨-, ⟨e, -, h⟩ | ⟨-, rfl⟩⟩ | ⟨_, k, l, -, ⟨-, rfl⟩ | ⟨u, k', l', -, ⟨t', hd, rfl⟩ | ha | ⟨e, -, h⟩⟩⟩ :=
    exec_next hexec
  · exact raised h
  · exact absurd rfl hkept
  · exact absurd (by rw [commandRetire_eq]) hkept
  · exact absurd (runUop_frame (.inl hd)).fault hkept
  · exact absurd (runUop_frame (.inr ha)).fault hkept
  · exact raised h

/-! ### SEQ's step and the block's (O5) -/

/-- SEQ's step is that of the running command, or of the one the stream spells at CP (40_execution R80, R81). -/
theorem seqStep_eq_exec {s : State} {i : Instr} (hf : s.fault = none)
    (h : (s.phase = .idle ∧ s.cp < s.stream.length ∧ decode (s.stream.drop s.cp) = .ok i) ∨
      ∃ k l, s.phase = .running i k l) : seqStep s = exec i s := by
  obtain ⟨hp, hcp, hdec⟩ | ⟨k, l, hp⟩ := h
  · simp [seqStep, hf, hp, fetch, hcp, hdec]
  · simp [seqStep, hf, hp]

/-- Where SHE has no step the block's is SEQ's (40_execution R78). -/
theorem step_of_not_sheReady {s : State} (h : s.sheReady = false) : step s = seqStep s := by
  simp [step, agentsStep, h]

/-- Where both agents have a step and the choice names SEQ, SEQ moves and the next choice is drawn (log 1). -/
theorem step_of_turn_seq {s t : State} (hr : s.sheReady = true) (hturn : s.turn = .seq) (h : seqStep s = .next t) :
    step s = .next t.chooseTurn := by
  simp [step, agentsStep, hr, hturn, h]

/-- Settles O5: SEQ's step is the command's, and the block's is SEQ's. -/
theorem stepRunsTheDecodedCommand : Obligations.StepRunsTheDecodedCommand := by
  unfold Obligations.StepRunsTheDecodedCommand
  intro s i hf h
  rw [← seqStep_eq_exec hf h]
  exact ⟨step_of_not_sheReady, fun hr hturn t ht => step_of_turn_seq hr hturn ht⟩

/-! ### Steps and transitions (O6, O7) -/

/-- Settles O6: a scheduling choice writes the two scheduling fields only. -/
theorem stepIsOneAgentsTransition : Obligations.StepIsOneAgentsTransition := by
  unfold Obligations.StepIsOneAgentsTransition
  intro s t h
  obtain ⟨u, hm, rfl | rfl⟩ := step_moves h
  · exact ⟨t, hm, rfl⟩
  · exact ⟨u, hm, rfl⟩

/-- The scheduling choice by itself. -/
def withTurn (a : Agent) (s : State) : State := { s with turn := a }

/-- A µop's result under another scheduling choice. -/
def resultWithTurn (a : Agent) (r : UopResult) : UopResult :=
  match r with
  | .done t => .done (withTurn a t)
  | .again t => .again (withTurn a t)
  | .raised c => .raised c

/-- No µop reads the scheduling choice. -/
theorem runUop_withTurn (u : Uop) (a : Agent) (s : State) :
    runUop u (withTurn a s) = resultWithTurn a (runUop u s) := by
  cases u
  case spinTxe | spinIdle | setCfg | writeTdr | disable | setMaster =>
    simp only [runUop, uSpinTXE, uSpinIdle, uSetCfg, uWriteTDR, uDisable, uSetMaster, apply_ite (resultWithTurn a)]
    rfl
  case pinOut p | pinHigh p | pinLow p =>
    cases p <;> simp only [runUop, uPinOut, uPinHigh, uPinLow, apply_ite (resultWithTurn a)] <;> rfl
  case select | release =>
    cases hg : Config.guardPresent <;> simp [runUop, uSelect, uRelease, State.guardCall, hg, resultWithTurn] <;> rfl
  case enable | unlock | postBlock => rfl

/-- SEQ's step does not read the scheduling choice (40_execution R78, log 1). -/
theorem exec_withTurn {i : Instr} {s t : State} (a : Agent) (h : exec i s = .next t) :
    exec i (withTurn a s) = .next (withTurn a t) := by
  cases hp : s.phase with
  | idle =>
    have hp' : (withTurn a s).phase = .idle := hp
    have hcheck : commandCheck i (withTurn a s) = commandCheck i s := by cases i <;> rfl
    rw [exec_idle hp] at h
    rw [exec_idle hp', hcheck]
    split at h <;> cases h <;> rfl
  | running c k l =>
    have hp' : (withTurn a s).phase = .running c k l := hp
    have hmem : (withTurn a s).mem = s.mem := rfl
    rw [exec_running hp] at h
    rw [exec_running hp', hmem]
    cases hm : commandProgram i s.mem k l with
    | retire =>
      simp only [hm] at h
      cases h
      simp only [commandRetire_eq]
      rfl
    | blocked => simp [hm, runMicro] at h
    | uop u k' l' =>
      simp only [hm, runMicro, runUop_withTurn] at h ⊢
      cases hu : runUop u s <;> simp only [hu] at h <;> cases h <;> rfl

theorem seqStep_withTurn {s t : State} (a : Agent) (h : seqStep s = .next t) :
    seqStep (withTurn a s) = .next (withTurn a t) := by
  obtain ⟨hf, ⟨hp, ⟨e, he, rfl⟩ | ⟨i, hi, hexec⟩⟩ | ⟨c, k, l, hp, hexec⟩⟩ := seqStep_next h
  · have hf' : (withTurn a s).fault = none := hf
    have hp' : (withTurn a s).phase = .idle := hp
    have he' : fetch (withTurn a s) = some (.error e) := he
    simp only [seqStep, hf', hp', he']
    rfl
  · obtain ⟨hcp, hdec⟩ := fetch_eq_ok hi
    exact (seqStep_eq_exec (s := withTurn a s) hf (.inl ⟨hp, hcp, hdec⟩)).trans (exec_withTurn a hexec)
  · exact (seqStep_eq_exec (s := withTurn a s) hf (.inr ⟨k, l, hp⟩)).trans (exec_withTurn a hexec)

/-- No step of SEQ is refused, so where SHE has a step the block has one (40_execution R78). -/
theorem seqStep_not_refused (s : State) (r : Refusal) : seqStep s ≠ .refused r := by
  unfold seqStep
  split
  · nofun
  · split
    · exact exec_not_refused _ s r
    · split
      · nofun
      · nofun
      · exact exec_not_refused _ s r

/-- SHE's step is the block's wherever the choice names SHE (40_execution R78, log 1). -/
theorem step_of_turn_she {s : State} (hr : s.sheReady = true) (hturn : s.turn = .she) :
    step s = .next (sheStep s) ∨ step s = .next (sheStep s).chooseTurn := by
  cases h : seqStep s with
  | next t => simp [step, agentsStep, hr, hturn, h]
  | fault r => simp [step, agentsStep, hr, h]
  | refused r => exact absurd h (seqStep_not_refused s r)

theorem sheStep_withTurn (a : Agent) (s : State) : sheStep (withTurn a s) = withTurn a (sheStep s) := by
  cases hsr : s.sr with
  | some r => simp [sheStep, withTurn, hsr, State.shift]
  | none => cases htxh : s.txh <;> simp [sheStep, withTurn, hsr, htxh, State.load]

/-- Settles O7: the choice that names the agent which moves. -/
theorem everyInterleavingIsAStep : Obligations.EveryInterleavingIsAStep := by
  unfold Obligations.EveryInterleavingIsAStep
  rintro s u (hseq | ⟨hr, rfl⟩)
  · refine ⟨.seq, ?_⟩
    have hstep : seqStep (withTurn .seq s) = .next (withTurn .seq u) := seqStep_withTurn .seq hseq
    cases hr : s.sheReady
    · exact ⟨_, (step_of_not_sheReady (s := withTurn .seq s) hr).trans hstep, rfl⟩
    · exact ⟨_, step_of_turn_seq hr rfl hstep, rfl⟩
  · refine ⟨.she, ?_⟩
    obtain h | h := step_of_turn_she (s := withTurn .she s) hr rfl <;> rw [sheStep_withTurn] at h <;>
      exact ⟨_, h, rfl⟩

/-! ### Where a run stops (O60) -/

/-- A window without a value has a byte that is not admitted (20_memory R40, R41). -/
theorem exists_read_eq_none {mem : List Host.Cell} {a n : Nat} (h : readBytes mem a n = none) :
    ∃ j, j < n ∧ Memory.read mem (a + j) = none := by
  induction n generalizing a with
  | zero => cases h
  | succ n ih =>
    cases hr : Memory.read mem a with
    | none => exact ⟨0, by omega, hr⟩
    | some b =>
      simp only [readBytes, hr, Option.map_eq_none_iff] at h
      obtain ⟨j, hj, hread⟩ := ih h
      exact ⟨j + 1, by omega, by rwa [Nat.add_comm j, ← Nat.add_assoc]⟩

section
variable {mem : List Host.Cell} {k : Nat} {l : Locals}

theorem repHead_ne_blocked {n : Nat} : repHead n l ≠ .blocked := by
  unfold repHead
  split <;> nofun

/-- The loop test of `wseq` blocks on the next window byte only (20_memory R40, log 9). -/
theorem seqHead_eq_blocked {a n : Word} (h : seqHead mem a n l = .blocked) :
    l.i < n.toNat ∧ Memory.read mem (a.toNat + l.i) = none := by
  unfold seqHead at h
  split at h
  · next hi =>
    split at h
    · next hread => exact ⟨hi, hread⟩
    · cases h
  · cases h

theorem seqProgram_eq_blocked {t : BitVec 3} {a n : Word} (hl : localsOk (.wseq t a n) k l)
    (h : seqProgram mem t a n k l = .blocked) : ∃ j, j < n.toNat ∧ Memory.read mem (a.toNat + j) = none := by
  obtain ⟨-, hi, -⟩ := hl
  unfold seqProgram at h
  split at h
  case h_2 => exact ⟨l.i, seqHead_eq_blocked h⟩
  case h_4 =>
    split at h
    · next hread => exact ⟨l.i, hi (by omega), hread⟩
    · cases h
  case h_5 => exact ⟨l.i + 1, seqHead_eq_blocked h⟩
  case h_6 | h_9 => exact absurd h postHead_is_uop.2
  all_goals cases h

theorem pixProgram_eq_blocked {a : PixArgs} (h : pixProgram mem a k l = .blocked) :
    ∃ j, j < a.len.toNat ∧ Memory.read mem (a.addr.toNat + j) = none := by
  unfold pixProgram at h
  split at h
  case h_2 =>
    split at h
    · next hwindow => exact exists_read_eq_none hwindow
    · exact absurd h pixHead_is_uop.2
  case h_3 => exact absurd h pixHead_is_uop.2
  case h_18 | h_21 => exact absurd h postHead_is_uop.2
  all_goals cases h

/-- Only `wseq` and `wpix` block, and on a byte of their window (20_memory R40). -/
theorem commandProgram_eq_blocked {c : Instr} (hl : localsOk c k l) (h : commandProgram c mem k l = .blocked) :
    ∃ j, (∃ u a n, c = .wseq u a n ∧ j < n.toNat ∧ Memory.read mem (a.toNat + j) = none) ∨
      ∃ a, c = .wpix a ∧ j < a.len.toNat ∧ Memory.read mem (a.addr.toNat + j) = none := by
  cases c
  case wseq t a n =>
    obtain ⟨j, hj⟩ := seqProgram_eq_blocked hl h
    exact ⟨j, .inl ⟨t, a, n, rfl, hj⟩⟩
  case wpix a =>
    obtain ⟨j, hj⟩ := pixProgram_eq_blocked h
    exact ⟨j, .inr ⟨a, rfl, hj⟩⟩
  case wrep =>
    simp only [commandProgram, repProgram] at h
    split at h
    case h_1 | h_4 => exact absurd h repHead_ne_blocked
    all_goals cases h
  case wbv =>
    simp only [commandProgram, bvProgram] at h
    split at h
    case h_2 | h_5 => exact absurd h bvHead_is_uop.2
    all_goals cases h
  all_goals
    simp only [commandProgram, initProgram, writeProgram, bitProgram, singleUop] at h
    split at h <;> cases h

end

/-- The decode step of a command always is one (40_execution R80). -/
theorem exec_idle_has_step {i : Instr} {s : State} (hp : s.phase = .idle) : ∃ t, exec i s = .next t := by
  rw [exec_idle hp]
  cases commandCheck i s <;> exact ⟨_, rfl⟩

/-- A running command has a step unless it is blocked (40_execution R81, 20_memory R40). -/
theorem exec_running_has_step {c : Instr} {s : State} {k : Nat} {l : Locals} (hp : s.phase = .running c k l)
    (hb : commandProgram c s.mem k l ≠ .blocked) : ∃ t, exec c s = .next t := by
  rw [exec_running hp]
  cases hm : commandProgram c s.mem k l with
  | retire => exact ⟨_, rfl⟩
  | blocked => exact absurd hm hb
  | uop u k' l' => cases hu : runUop u s <;> simp [runMicro, hu]

/-- Where SHE has a step the block has one (40_execution R78). -/
theorem step_of_sheReady {s : State} (hr : s.sheReady = true) : ∃ t, step s = .next t := by
  cases hs : seqStep s with
  | next u => cases ht : s.turn <;> simp [step, agentsStep, hr, hs, ht]
  | fault r => simp [step, agentsStep, hr, hs]
  | refused r => exact absurd hs (seqStep_not_refused s r)

/-- Drained, SHE has no step (40_execution R101). -/
theorem not_sheReady_of_idle {s : State} (h : s.idle = true) : s.sheReady = false := by
  simp_all [State.sheReady, State.idle]

/-- SHE rests only when drained, its words being held by an enabled master only (40_execution R101). -/
theorem idle_of_not_sheReady {s : State} (h : EngineOk s) (hr : s.sheReady = false) : s.idle = true := by
  obtain ⟨-, -, hmaster⟩ := h
  by_contra hidle
  obtain ⟨hen, hmstr⟩ := hmaster (by simpa using hidle)
  simp_all [State.sheReady, State.idle]

theorem step_of_final {s : State} (h : Final s) : step s = .fault .runFinal := by
  obtain ⟨hf, hcp, hp, hidle⟩ := h
  rw [step_of_not_sheReady (not_sheReady_of_idle hidle)]
  simp [seqStep, hf, hp, fetch, hcp, endReason, hidle]

/-- Between commands SEQ has a step, or the stream is at its end (40_execution R80, R105). -/
theorem seqStep_idle_has_step {s : State} (hs : StreamOk s) (hf : s.fault = none) (hp : s.phase = .idle)
    (hcp : s.cp ≠ s.stream.length) : ∃ t, seqStep s = .next t := by
  obtain ⟨hle, -⟩ := hs
  have hlt : s.cp < s.stream.length := by omega
  cases hd : decode (s.stream.drop s.cp) with
  | error e => simp [seqStep, hf, hp, fetch, hlt, hd]
  | ok i =>
    rw [seqStep_eq_exec hf (.inl ⟨hp, hlt, hd⟩)]
    exact exec_idle_has_step hp

/-- Settles O60: with SHE at rest the block's step is SEQ's, which is missing at the end of the stream, after a fault and
at a blocked read. -/
theorem runsStopOnlyWhereTheSpecSays : Obligations.RunsStopOnlyWhereTheSpecSays := by
  unfold Obligations.RunsStopOnlyWhereTheSpecSays
  refine ⟨fun s => step_of_final, fun s hstream hengine hprogress => ?_⟩
  by_cases hr : s.sheReady = true
  · exact .inr (.inr (.inr (step_of_sheReady hr)))
  have hr : s.sheReady = false := by simpa using hr
  have hidle := idle_of_not_sheReady hengine hr
  by_cases hf : s.fault = none
  · cases hp : s.phase with
    | idle =>
      by_cases hcp : s.cp = s.stream.length
      · have hfinal : Final s := ⟨hf, hcp, hp, hidle⟩
        exact .inl ⟨step_of_final hfinal, hfinal⟩
      · exact .inr (.inr (.inr (step_of_not_sheReady hr ▸ seqStep_idle_has_step hstream hf hp hcp)))
    | running c k l =>
      by_cases hb : commandProgram c s.mem k l = .blocked
      · obtain ⟨j, hj⟩ := commandProgram_eq_blocked (hprogress c k l hp) hb
        exact .inr (.inr (.inl ⟨(blocked_has_no_step hp hb).2 hf hr, hidle, c, k, l, j, rfl, hj⟩))
      · exact .inr (.inr (.inr (step_eq_exec_of_running hp hf hr ▸ exec_running_has_step hp hb)))
  · obtain ⟨e, he⟩ := Option.ne_none_iff_exists'.1 hf
    have hseq : seqStep s = .fault .runFaulted := by simp [seqStep, he]
    exact .inr (.inl ⟨step_of_not_sheReady hr ▸ hseq, hf, hidle⟩)

end Sys2Proof.Proofs
end

section
/-! The execution family (40_execution), part 3: the rules of the clock wire and of the µops, one for each outcome of a
µop; the P-class commands run one µop each, and so do `sel`, `rel` and `widle`. -/

namespace Sys2Proof.Proofs

open Sys2Proof Sys2Proof.Machine Sys2Proof.Safety

/-! ### The clock wire (O42) -/

section
variable {s : State} {o : Origin} {c0 : Level}

/-- A manual rising edge samples a driven data wire. -/
theorem wireUpdate_manual_edge {b : Bool} (hclk : s.wireClk = .high) (hdata : s.wireData = levelOf b) :
    s.wireUpdate .manual .low = { s with wtrace := s.wtrace ++ [.edge b s.cs .manual none] } := by
  cases b <;> simp [State.wireUpdate, wireEvents, wireDraws, edgeBit, edgeDraws, hclk, hdata, levelOf]

/-- Any other rising edge has a drawn bit (log 3). -/
theorem wireUpdate_drawn_edge (hclk : s.wireClk = .high) (hdraw : o ≠ .manual ∨ s.wireData = .hiZ) :
    s.wireUpdate o .low = { s with
      wtrace := s.wtrace ++ [.edge (Config.drawBit s.drawIx) s.cs o none], drawIx := s.drawIx + 1 } := by
  cases o <;> simp_all [State.wireUpdate, wireEvents, wireDraws, edgeBit, edgeDraws]

theorem wireUpdate_glitch (h : (c0 = .hiZ ∧ s.wireClk = .high) ∨ (c0 = .low ∧ s.wireClk = .hiZ)) :
    s.wireUpdate o c0 = { s with wtrace := s.wtrace ++ [.glitch s.cs] } := by
  obtain ⟨rfl, hclk⟩ | ⟨rfl, hclk⟩ := h <;> simp [State.wireUpdate, wireEvents, wireDraws, hclk]

theorem wireUpdate_quiet (hedge : ¬ (c0 = .low ∧ s.wireClk = .high)) (hrise : ¬ (c0 = .hiZ ∧ s.wireClk = .high))
    (hfloat : ¬ (c0 = .low ∧ s.wireClk = .hiZ)) : s.wireUpdate o c0 = s := by
  cases c0 <;> cases hclk : s.wireClk <;> simp_all [State.wireUpdate, wireEvents, wireDraws]

/-- A clock that falls to 0 or stays where it was records nothing. -/
theorem wireUpdate_of_low_or_same (h : s.wireClk = .low ∨ s.wireClk = c0) : s.wireUpdate o c0 = s := by
  apply wireUpdate_quiet <;> rintro ⟨rfl, hclk⟩ <;> simp [hclk] at h

theorem wireClk_of_disabled (h : s.en = false) : s.wireClk = if s.dirClk then levelOf s.latClk else .hiZ := by
  simp [State.wireClk, h]

theorem wireData_of_disabled (h : s.en = false) : s.wireData = if s.dirData then levelOf s.latData else .hiZ := by
  simp [State.wireData, h]

end

/-- Settles O42: the three cases that record something, and the others. -/
theorem wireUpdateRecordsRisingClocks : Obligations.WireUpdateRecordsRisingClocks := by
  unfold Obligations.WireUpdateRecordsRisingClocks
  intro s o c0
  refine ⟨?_, ?_, wireUpdate_glitch, wireUpdate_quiet⟩
  · rintro rfl hclk rfl b hdata
    exact wireUpdate_manual_edge hclk hdata
  · rintro rfl hclk hdraw
    exact wireUpdate_drawn_edge hclk hdraw

/-! ### The shift engine (O43) -/

theorem sheReady_iff (s : State) :
    s.sheReady = true ↔ s.en = true ∧ s.mstr = true ∧ (s.txh ≠ none ∨ s.sr ≠ none) := by
  simp [State.sheReady, Option.isSome_iff_ne_none, and_assoc]

/-- Settles O43: when SHE is ready, and what its step does with a word in TXH or SR. -/
theorem shiftEngineLoadsAndShifts : Obligations.ShiftEngineLoadsAndShifts := by
  unfold Obligations.ShiftEngineLoadsAndShifts
  refine ⟨fun s => ?_, ?_, ?_⟩
  · rw [← sheReady_iff]
    exact ⟨fun ⟨_, hr, _⟩ => hr, fun hr => ⟨_, hr, rfl⟩⟩
  · rintro s t w ⟨-, rfl⟩ hsr htxh
    simp only [sheStep, hsr, htxh]
    rfl
  · rintro s t r ⟨-, rfl⟩ hsr hk
    have hlast : r.k ≤ 1 ↔ r.k = 1 := by omega
    simp only [sheStep, hsr, State.shift, shiftBit, hlast]

/-! ### A µop of a running command -/

section
variable {c : Instr} {s t : State} {k k' : Nat} {l l' : Locals} {u : Uop}

theorem exec_of_done (hp : s.phase = .running c k l) (hm : commandProgram c s.mem k l = .uop u k' l')
    (hd : runUop u s = .done t) : exec c s = .next (t.goto c k' l') := by
  simp [exec_running hp, hm, runMicro, hd]

theorem exec_of_raised {e : FaultCode} (hp : s.phase = .running c k l)
    (hm : commandProgram c s.mem k l = .uop u k' l') (hr : runUop u s = .raised e) :
    exec c s = .next (afterFault s e) := by
  simp [exec_running hp, hm, runMicro, hr, State.raiseFault, afterFault]

/-- A failed spin stays current (40_execution R84). -/
theorem exec_of_again (hp : s.phase = .running c k l) (hm : commandProgram c s.mem k l = .uop u k' l')
    (ha : runUop u s = .again (s.emitR s.pollEvent)) : exec c s = .next (afterPoll s c k l) := by
  simp [exec_running hp, hm, runMicro, ha, State.emitR, State.pollEvent, afterPoll, ← hp]

/-- A spin on TXE completes at a poll that reads it as 1, and else stays current (40_execution R86). -/
theorem exec_spinTxe (hp : s.phase = .running c k l) (hm : commandProgram c s.mem k l = .uop .spinTxe k' l') :
    (s.txe = true → exec c s = .next (afterPoll s c k' l')) ∧
    (s.txe = false → exec c s = .next (afterPoll s c k l)) :=
  ⟨fun h => exec_of_done (t := s.emitR s.pollEvent) hp hm (by simp [runUop, uSpinTXE, h]),
    fun h => exec_of_again hp hm (by simp [runUop, uSpinTXE, h])⟩

/-- A spin on IDLE likewise (40_execution R87). -/
theorem exec_spinIdle (hp : s.phase = .running c k l) (hm : commandProgram c s.mem k l = .uop .spinIdle k' l') :
    (s.idle = true → exec c s = .next (afterPoll s c k' l')) ∧
    (s.idle = false → exec c s = .next (afterPoll s c k l)) :=
  ⟨fun h => exec_of_done (t := s.emitR s.pollEvent) hp hm (by simp [runUop, uSpinIdle, h]),
    fun h => exec_of_again hp hm (by simp [runUop, uSpinIdle, h])⟩

end

/-- Settles O16: the three commands of one spin each. -/
theorem spinsPollOncePerStep : Obligations.SpinsPollOncePerStep := by
  unfold Obligations.SpinsPollOncePerStep
  exact ⟨fun _ _ hp => exec_spinTxe hp rfl, fun _ _ hp => exec_spinIdle hp rfl, fun _ _ hp => exec_spinIdle hp rfl⟩

/-! ### Width and divider, and the holding register (O17, O18) -/

section
variable {s : State}

theorem txe_eq_false_iff : s.txe = false ↔ s.txh ≠ none := by simp [State.txe, Option.isSome_iff_ne_none]

theorem runUop_setCfg (w : Bool) (d : Byte) (h : CanConfig s) :
    runUop (.setCfg w d) s = .done { s with w16 := w, div := d, rtrace := s.rtrace ++ [.cfg w d] } := by
  obtain ⟨hlock, htxh⟩ := h
  simp [runUop, uSetCfg, hlock, State.txe, htxh, State.emitR]

theorem runUop_setCfg_locked (w : Bool) (d : Byte) (h : s.unlocked = false) :
    runUop (.setCfg w d) s = .raised .cfgLocked := by
  simp [runUop, uSetCfg, h]

theorem runUop_setCfg_pending (w : Bool) (d : Byte) (hlock : s.unlocked = true) (htxh : s.txh ≠ none) :
    runUop (.setCfg w d) s = .raised .cfgWhilePending := by
  simp [runUop, uSetCfg, hlock, txe_eq_false_iff.2 htxh]

theorem runUop_writeTdr {v : Half} (h : CanQueue s v) :
    runUop (.writeTdr v) s = .done { s with
      txh := some { v := v, w16 := s.w16, div := s.div }, rtrace := s.rtrace ++ [.queue v s.w16] } := by
  obtain ⟨hen, hmstr, htxh, hv, hdiv⟩ := h
  exact uWriteTDR_done.2 ⟨hen, hmstr, by simp [State.txe, htxh], hv, hdiv, rfl⟩

theorem runUop_writeTdr_disabled (v : Half) (h : s.en = false ∨ s.mstr = false) :
    runUop (.writeTdr v) s = .raised .writeWhileDisabled := if_pos h

theorem runUop_writeTdr_overrun (v : Half) (hen : s.en = true) (hmstr : s.mstr = true) (htxh : s.txh ≠ none) :
    runUop (.writeTdr v) s = .raised .overrun := by
  simp [runUop, uWriteTDR, hen, hmstr, txe_eq_false_iff.2 htxh]

theorem runUop_writeTdr_illegal {v : Half} (hen : s.en = true) (hmstr : s.mstr = true) (htxh : s.txh = none)
    (h : (s.w16 = false ∧ v.extractLsb' 8 8 ≠ 0#8) ∨ s.div = 0#8) :
    runUop (.writeTdr v) s = .raised .illegalOperand := by
  by_cases hv : s.w16 = false ∧ v.extractLsb' 8 8 ≠ 0#8
  · simp [runUop, uWriteTDR, State.txe, hen, hmstr, htxh, hv]
  · simp [runUop, uWriteTDR, State.txe, hen, hmstr, htxh, h.resolve_left hv]

end

/-- Settles O17, from the three outcomes of uSetCfg. -/
theorem cfgSetsWidthAndDivider : Obligations.CfgSetsWidthAndDivider := by
  unfold Obligations.CfgSetsWidthAndDivider
  intro w d s l hp
  exact ⟨fun hlock htxh => exec_of_done hp rfl (runUop_setCfg w d ⟨hlock, htxh⟩),
    fun hlock => exec_of_raised hp rfl (runUop_setCfg_locked w d hlock),
    fun hlock htxh => exec_of_raised hp rfl (runUop_setCfg_pending w d hlock htxh)⟩

/-- Settles O18, from the outcomes of uWriteTDR. -/
theorem wtdrFillsTheHoldingRegister : Obligations.WtdrFillsTheHoldingRegister := by
  unfold Obligations.WtdrFillsTheHoldingRegister
  intro v s l hp
  exact ⟨fun h => exec_of_done hp rfl (runUop_writeTdr h),
    fun h => exec_of_raised hp rfl (runUop_writeTdr_disabled v h),
    fun hen hmstr htxh => exec_of_raised hp rfl (runUop_writeTdr_overrun v hen hmstr htxh),
    fun hen hmstr htxh h => exec_of_raised hp rfl (runUop_writeTdr_illegal hen hmstr htxh h)⟩

/-! ### Enable and disable, lock and master mode (O19, O20, O21) -/

section
variable {s : State} {c0 : Level}

theorem wireUpdate_eq {o : Origin} {w : List WEvent} {d : Nat} (hw : wireEvents o c0 s = w)
    (hd : s.drawIx + wireDraws o c0 s = d) :
    s.wireUpdate o c0 = { s with wtrace := s.wtrace ++ w, drawIx := d } := by
  rw [State.wireUpdate, hw, hd]

/-- An enabled peripheral holds the clock at 0 as a master and lets it float else (10_state R33). -/
theorem wireEvents_of_enabled (h : s.en = true) :
    wireEvents .mux c0 s = if s.mstr = false ∧ c0 = .low then [.glitch s.cs] else [] := by
  cases hm : s.mstr <;> cases c0 <;> simp [wireEvents, State.wireClk, h, hm]

theorem wireDraws_of_enabled (h : s.en = true) : wireDraws .mux c0 s = 0 := by
  cases hm : s.mstr <;> cases c0 <;> simp [wireDraws, State.wireClk, h, hm]

/-- A disabled peripheral leaves the clock to its latch, or floating where the pin is an input (10_state R33). -/
theorem wireEvents_of_disabled (h : s.en = false) :
    wireEvents .mux c0 s =
      if s.dirClk = true ∧ s.latClk = true ∧ c0 = .low then [.edge (Config.drawBit s.drawIx) s.cs .mux none]
      else if s.dirClk = true ∧ s.latClk = true ∧ c0 = .hiZ then [.glitch s.cs]
      else if s.dirClk = false ∧ c0 = .low then [.glitch s.cs]
      else [] := by
  cases hdir : s.dirClk <;> cases hlat : s.latClk <;> cases c0 <;>
    simp [wireEvents, wireClk_of_disabled h, hdir, hlat, levelOf, edgeBit]

theorem wireDraws_of_disabled (h : s.en = false) :
    s.drawIx + wireDraws .mux c0 s =
      if s.dirClk = true ∧ s.latClk = true ∧ c0 = .low then s.drawIx + 1 else s.drawIx := by
  cases hdir : s.dirClk <;> cases hlat : s.latClk <;> cases c0 <;>
    simp [wireDraws, wireClk_of_disabled h, hdir, hlat, levelOf, edgeDraws]

theorem runUop_enable (s : State) :
    runUop .enable s = .done { s with
      en := true, rtrace := s.rtrace ++ [.enable]
      wtrace := s.wtrace ++ (if s.mstr = false ∧ s.wireClk = .low then [.glitch s.cs] else []) } :=
  congrArg UopResult.done (wireUpdate_eq (wireEvents_of_enabled rfl) (congrArg _ (wireDraws_of_enabled rfl)))

theorem runUop_disable (hidle : s.idle = true) :
    runUop .disable s = .done { s with
      en := false, rtrace := s.rtrace ++ [.disable]
      wtrace := s.wtrace ++
        (if s.dirClk = true ∧ s.latClk = true ∧ s.wireClk = .low then
          [.edge (Config.drawBit s.drawIx) s.cs .mux none]
        else if s.dirClk = true ∧ s.latClk = true ∧ s.wireClk = .hiZ then [.glitch s.cs]
        else if s.dirClk = false ∧ s.wireClk = .low then [.glitch s.cs]
        else [])
      drawIx := if s.dirClk = true ∧ s.latClk = true ∧ s.wireClk = .low then s.drawIx + 1 else s.drawIx } := by
  have hdone := (uDisable_spec s).resolve_left fun h => by simp [hidle] at h
  exact hdone.2.trans
    (congrArg UopResult.done (wireUpdate_eq (wireEvents_of_disabled rfl) (wireDraws_of_disabled rfl)))

theorem runUop_disable_busy (h : s.idle = false) : runUop .disable s = .raised .disableWhileBusy := if_pos h

theorem runUop_unlock (s : State) :
    runUop .unlock s = .done { s with unlocked := true, rtrace := s.rtrace ++ [.unlock] } := rfl

/-- Master mode only ever lets the clock fall to 0 (40_execution R93). -/
theorem runUop_setMaster (h : s.unlocked = true) :
    runUop .setMaster s = .done { s with mstr := true, rtrace := s.rtrace ++ [.master] } := by
  have hclk : ({ s with mstr := true }.emitR .master).wireClk = .low ∨
      ({ s with mstr := true }.emitR .master).wireClk = s.wireClk := by
    by_cases hen : s.en = true
    · exact .inl (if_pos hen)
    · have hen : s.en = false := by simpa using hen
      exact .inr ((wireClk_of_disabled (s := { s with mstr := true }) hen).trans (wireClk_of_disabled hen).symm)
  have hdone := (uSetMaster_spec s).resolve_left fun h' => by simp [h] at h'
  exact hdone.2.trans (congrArg UopResult.done (wireUpdate_of_low_or_same hclk))

theorem runUop_setMaster_locked (h : s.unlocked = false) : runUop .setMaster s = .raised .cfgLocked := if_pos h

end

/-- Settles O19, from the clock of an enabled peripheral. -/
theorem enHandsTheWiresToThePeripheral : Obligations.EnHandsTheWiresToThePeripheral := by
  unfold Obligations.EnHandsTheWiresToThePeripheral
  exact fun s l hp => exec_of_done hp rfl (runUop_enable s)

/-- Settles O20, from the clock of a disabled peripheral. -/
theorem disHandsTheWiresToTheLatches : Obligations.DisHandsTheWiresToTheLatches := by
  unfold Obligations.DisHandsTheWiresToTheLatches
  exact fun s l hp => ⟨fun h => exec_of_done hp rfl (runUop_disable h),
    fun h => exec_of_raised hp rfl (runUop_disable_busy h)⟩

/-- Settles O21: uUnlock touches no wire, and uSetMaster never raises the clock. -/
theorem unlockAndMasterSetTheirBits : Obligations.UnlockAndMasterSetTheirBits := by
  unfold Obligations.UnlockAndMasterSetTheirBits
  exact ⟨fun s l hp => exec_of_done hp rfl (runUop_unlock s), fun s l hp =>
    ⟨fun h => exec_of_done hp rfl (runUop_setMaster h), fun h => exec_of_raised hp rfl (runUop_setMaster_locked h)⟩⟩

/-! ### The pins (O22, O23, O24) -/

section
variable {s : State}

theorem runUop_pinOut_data (hen : s.en = false) :
    runUop (.pinOut .data) s = .done { s with dirData := true, rtrace := s.rtrace ++ [.pinOut .data] } := by
  have hclk : ((s.setOutput .data).emitR (.pinOut .data)).wireClk = s.wireClk := rfl
  have hdone := (uPinOut_spec .data s).resolve_left fun h => by simp [hen] at h
  exact hdone.2.trans (congrArg UopResult.done (wireUpdate_of_low_or_same (.inr hclk)))

/-- A clock pin with its latch at 1 rises out of Z when it becomes an output (41_primitives R116). -/
theorem runUop_pinOut_clk (hen : s.en = false) :
    runUop (.pinOut .clk) s = .done { s with
      dirClk := true, rtrace := s.rtrace ++ [.pinOut .clk]
      wtrace := s.wtrace ++ (if s.dirClk = false ∧ s.latClk = true then [.glitch s.cs] else []) } := by
  have hclk : ((s.setOutput .clk).emitR (.pinOut .clk)).wireClk = levelOf s.latClk := wireClk_of_disabled hen
  have hdone := (uPinOut_spec .clk s).resolve_left fun h => by simp [hen] at h
  refine hdone.2.trans ?_
  by_cases h : s.dirClk = false ∧ s.latClk = true
  · obtain ⟨hdir, hlat⟩ := id h
    have hfloat : s.wireClk = .hiZ := by simp [wireClk_of_disabled hen, hdir]
    rw [if_pos h]
    exact congrArg UopResult.done (wireUpdate_glitch (.inl ⟨hfloat, by rw [hclk, hlat]; rfl⟩))
  · rw [if_neg h, List.append_nil]
    refine congrArg UopResult.done (wireUpdate_of_low_or_same ?_)
    rw [hclk, wireClk_of_disabled hen]
    cases hdir : s.dirClk <;> cases hlat : s.latClk <;> simp_all [levelOf]

theorem runUop_pinOut_enabled (p : Pin) (hen : s.en = true) : runUop (.pinOut p) s = .raised .pinConflict := if_pos hen

/-- A clock pin whose latch is raised makes a manual edge out of a 0, with the data latch's bit where the data pin drives
it (40_execution R100). -/
theorem wireEvents_of_raised_latch {b : Bool} (hen : s.en = false) (hdir : s.dirClk = true) (hlat : s.latClk = true) :
    wireEvents .manual (levelOf b) s =
      if b = false then [.edge (if s.dirData then s.latData else Config.drawBit s.drawIx) s.cs .manual none]
      else [] := by
  cases b <;> cases hdata : s.dirData <;> cases hbit : s.latData <;>
    simp [wireEvents, wireClk_of_disabled hen, wireData_of_disabled hen, hdir, hlat, hdata, hbit, levelOf, edgeBit]

theorem wireDraws_of_raised_latch {b : Bool} (hen : s.en = false) (hdir : s.dirClk = true) (hlat : s.latClk = true) :
    s.drawIx + wireDraws .manual (levelOf b) s =
      if b = false ∧ s.dirData = false then s.drawIx + 1 else s.drawIx := by
  cases b <;> cases hdata : s.dirData <;> cases hbit : s.latData <;>
    simp [wireDraws, wireClk_of_disabled hen, wireData_of_disabled hen, hdir, hlat, hdata, hbit, levelOf, edgeDraws]

theorem runUop_pinHigh_data (hen : s.en = false) (hdir : s.dirData = true) :
    runUop (.pinHigh .data) s = .done { s with latData := true, rtrace := s.rtrace ++ [.pinHigh .data] } := by
  have hclk : ((s.setLat .data true).emitR (.pinHigh .data)).wireClk = s.wireClk := rfl
  have hdone := (uPinHigh_spec .data s).resolve_left fun h => by simp [hen, State.dir, hdir] at h
  exact hdone.2.2.trans (congrArg UopResult.done (wireUpdate_of_low_or_same (.inr hclk)))

theorem runUop_pinHigh_clk (hen : s.en = false) (hdir : s.dirClk = true) :
    runUop (.pinHigh .clk) s = .done { s with
      latClk := true, rtrace := s.rtrace ++ [.pinHigh .clk]
      wtrace := s.wtrace ++
        (if s.latClk = false then
          [.edge (if s.dirData then s.latData else Config.drawBit s.drawIx) s.cs .manual none]
        else [])
      drawIx := if s.latClk = false ∧ s.dirData = false then s.drawIx + 1 else s.drawIx } := by
  have hbefore : s.wireClk = levelOf s.latClk := (wireClk_of_disabled hen).trans (if_pos hdir)
  have hdone := (uPinHigh_spec .clk s).resolve_left fun h => by simp [hen, State.dir, hdir] at h
  refine hdone.2.2.trans (congrArg UopResult.done ?_)
  rw [hbefore]
  exact wireUpdate_eq (s := (s.setLat .clk true).emitR (.pinHigh .clk)) (wireEvents_of_raised_latch hen hdir rfl)
    (wireDraws_of_raised_latch hen hdir rfl)

theorem runUop_pinLow_data (hen : s.en = false) (hdir : s.dirData = true) :
    runUop (.pinLow .data) s = .done { s with latData := false, rtrace := s.rtrace ++ [.pinLow .data] } := by
  have hclk : ((s.setLat .data false).emitR (.pinLow .data)).wireClk = s.wireClk := rfl
  have hdone := (uPinLow_spec .data s).resolve_left fun h => by simp [hen, State.dir, hdir] at h
  exact hdone.2.2.trans (congrArg UopResult.done (wireUpdate_of_low_or_same (.inr hclk)))

theorem runUop_pinLow_clk (hen : s.en = false) (hdir : s.dirClk = true) :
    runUop (.pinLow .clk) s = .done { s with latClk := false, rtrace := s.rtrace ++ [.pinLow .clk] } := by
  have hclk : ((s.setLat .clk false).emitR (.pinLow .clk)).wireClk = .low :=
    (wireClk_of_disabled (s := s.setLat .clk false) hen).trans (if_pos hdir)
  have hdone := (uPinLow_spec .clk s).resolve_left fun h => by simp [hen, State.dir, hdir] at h
  exact hdone.2.2.trans (congrArg UopResult.done (wireUpdate_of_low_or_same (.inl hclk)))

/-- The pin µops on a latch fault while the peripheral is enabled or the pin is an input (40_execution R95, R96). -/
theorem runUop_pinHigh_conflict {p : Pin} (h : s.en = true ∨ s.dir p = false) :
    runUop (.pinHigh p) s = .raised .pinConflict := if_pos h

theorem runUop_pinLow_conflict {p : Pin} (h : s.en = true ∨ s.dir p = false) :
    runUop (.pinLow p) s = .raised .pinConflict := if_pos h

/-- The two ways a pin µop conflicts, pin by pin. -/
theorem conflict_of_pin {p : Pin} (h : s.en = true ∨ (p = .data ∧ s.dirData = false) ∨ (p = .clk ∧ s.dirClk = false)) :
    s.en = true ∨ s.dir p = false := by
  obtain h | ⟨rfl, h⟩ | ⟨rfl, h⟩ := h
  · exact .inl h
  · exact .inr h
  · exact .inr h

end

/-- Settles O22, pin by pin: the data pin leaves the clock alone. -/
theorem pinoutMakesThePinAnOutput : Obligations.PinoutMakesThePinAnOutput := by
  unfold Obligations.PinoutMakesThePinAnOutput
  refine fun p s l hp => ⟨fun hen => ?_, fun hen => exec_of_raised hp rfl (runUop_pinOut_enabled p hen)⟩
  cases p
  · rw [exec_of_done hp rfl (runUop_pinOut_data hen)]
    simp [State.goto]
  · rw [exec_of_done hp rfl (runUop_pinOut_clk hen)]
    simp [State.goto]

/-- Settles O23, pin by pin: the data pin leaves the clock alone. -/
theorem pinhiDrivesThePinHigh : Obligations.PinhiDrivesThePinHigh := by
  unfold Obligations.PinhiDrivesThePinHigh
  refine fun p s l hp => ⟨fun hen hdata hclk => ?_,
    fun h => exec_of_raised hp rfl (runUop_pinHigh_conflict (conflict_of_pin h))⟩
  cases p
  · rw [exec_of_done hp rfl (runUop_pinHigh_data hen (hdata rfl))]
    simp [State.goto]
  · rw [exec_of_done hp rfl (runUop_pinHigh_clk hen (hclk rfl))]
    simp [State.goto]

/-- Settles O24, pin by pin: neither raises the clock. -/
theorem pinloDrivesThePinLow : Obligations.PinloDrivesThePinLow := by
  unfold Obligations.PinloDrivesThePinLow
  refine fun p s l hp => ⟨fun hen hdata hclk => ?_,
    fun h => exec_of_raised hp rfl (runUop_pinLow_conflict (conflict_of_pin h))⟩
  cases p
  · rw [exec_of_done hp rfl (runUop_pinLow_data hen (hdata rfl))]
    simp [State.goto]
  · rw [exec_of_done hp rfl (runUop_pinLow_clk hen (hclk rfl))]
    simp [State.goto]

/-! ### Select and release (O27) -/

/-- The guard's call records the level it sets, and without a guard there is none (40_execution R97, R98). -/
theorem guardCall_eq (s : State) (level : CsLevel) :
    s.guardCall level = { s with
      cs := if Config.guardPresent then level else s.cs
      wtrace := s.wtrace ++ (if Config.guardPresent then [.cs level] else []) } := by
  cases hg : Config.guardPresent <;> simp [State.guardCall, hg]

theorem exec_select {c : Instr} {s : State} {k k' : Nat} {l l' : Locals} (hp : s.phase = .running c k l)
    (hm : commandProgram c s.mem k l = .uop .select k' l') :
    exec c s = .next (afterGuard s .select .asserted c k' l') :=
  exec_of_done hp hm (congrArg UopResult.done (guardCall_eq (s.emitR .select) .asserted))

theorem exec_release {c : Instr} {s : State} {k k' : Nat} {l l' : Locals} (hp : s.phase = .running c k l)
    (hm : commandProgram c s.mem k l = .uop .release k' l') :
    exec c s = .next (afterGuard s .release .released c k' l') :=
  exec_of_done hp hm (congrArg UopResult.done (guardCall_eq (s.emitR .release) .released))

/-- Settles O27, from the guard's call. -/
theorem selAndRelMoveChipSelect : Obligations.SelAndRelMoveChipSelect := by
  unfold Obligations.SelAndRelMoveChipSelect
  exact ⟨fun _ _ hp => exec_select hp rfl, fun _ _ hp => exec_release hp rfl⟩

end Sys2Proof.Proofs
end

section
/-! The initialisation family (42_init_select): the check at decode, what INIT establishes, what each position of a
micro-program guarantees by the µop that leads to it, the µops of `init` and a whole `init`. -/

namespace Sys2Proof.Proofs

open Sys2Proof Sys2Proof.Machine Sys2Proof.Safety

/-! ### The check at decode (O10) -/

/-- Before INIT no S-class command but `init` passes, its window and pixel checks coming later (60_exceptions R138). -/
theorem commandCheck_of_not_initDone {i : Instr} {s : State} (hclass : i.isSClass = true) (hi : i ≠ .init)
    (hdone : s.initDone = false) : commandCheck i s = some .notInitialised := by
  have hinit : initialisedCheck s = some .notInitialised := by simp [initialisedCheck, hdone]
  cases i
  case init => exact absurd rfl hi
  case sel | rel | wbyte | wword | widle | wrep | wbv | wbit => exact hinit
  case wseq => simp only [commandCheck, hinit, firstFault]
  case wpix => simp only [commandCheck, pixCheck, hinit, firstFault]
  all_goals simp [Instr.isSClass, Instr.opcode] at hclass

/-- Settles O10: the initialisation checks are each command's first. -/
theorem initialisationIsCheckedAtDecode : Obligations.InitialisationIsCheckedAtDecode := by
  unfold Obligations.InitialisationIsCheckedAtDecode
  exact ⟨fun i s hclass hi hp hdone => exec_idle_of_check hp (commandCheck_of_not_initDone hclass hi hdone),
    fun s hp hdone => exec_idle_of_check hp (if_pos hdone)⟩

/-! ### What INIT establishes (O49) -/

/-- What a running INIT has established at position `k` (42_init_select R120). -/
def InitProgress (s : State) (k : Nat) : Prop :=
  (1 ≤ k → s.dirData = true) ∧ (2 ≤ k → s.dirClk = true) ∧ (4 ≤ k → s.unlocked = true) ∧ (5 ≤ k → s.mstr = true)

/-- Each µop of `init` adds its register, and no µop clears one. -/
theorem initProgress_uop {s t : State} {k k' : Nat} {l l' : Locals} {u : Uop} (h : InitProgress s k)
    (hm : initProgram k l = .uop u k' l') (hd : runUop u s = .done t) : InitProgress t k' := by
  obtain ⟨hun, hmstr, hdata, hclk, -⟩ := runUop_keeps_registers hd
  obtain ⟨hdata', hclk', hun', hmstr'⟩ := h
  have hkept : InitProgress t k :=
    ⟨fun hk => hdata (hdata' hk), fun hk => hclk (hclk' hk), fun hk => hun (hun' hk), fun hk => hmstr (hmstr' hk)⟩
  obtain ⟨hdata, hclk, hun, hmstr⟩ := hkept
  have hdone := runUop_done hd
  unfold initProgram at hm
  split at hm <;> cases hm
  case h_1 => exact ⟨fun _ => by simp [hdone.2, State.setOutput], by omega, by omega, by omega⟩
  case h_2 => exact ⟨fun _ => hdata le_rfl, fun _ => by simp [hdone.2, State.setOutput], by omega, by omega⟩
  case h_3 => exact ⟨fun _ => hdata (by omega), fun _ => hclk le_rfl, by omega, by omega⟩
  case h_4 => exact ⟨fun _ => hdata (by omega), fun _ => hclk (by omega), fun _ => by simp [hdone], by omega⟩
  case h_5 =>
    exact ⟨fun _ => hdata (by omega), fun _ => hclk (by omega), fun _ => hun le_rfl, fun _ => by simp [hdone.2]⟩
  case h_6 | h_7 =>
    exact ⟨fun _ => hdata (by omega), fun _ => hclk (by omega), fun _ => hun (by omega), fun _ => hmstr (by omega)⟩

theorem initOk_transition {s t : State} (h : InitOk s) (ht : Transition s t) : InitOk t := by
  obtain ⟨hafter, hrun⟩ := h
  cases ht with
  | fault c => exact ⟨hafter, hrun⟩
  | start i =>
    refine ⟨hafter, fun k l hp => ?_⟩
    cases hp
    simp
  | @retire i k l _ hp hm =>
    rw [commandRetire_eq]
    refine ⟨fun hdone => ?_, fun k l hp => by cases hp⟩
    obtain hi | hdone := Bool.or_eq_true_iff.1 hdone
    · obtain rfl := of_decide_eq_true hi
      have hk : 7 ≤ k := initProgram_retire hm
      obtain ⟨hdata, hclk, hun, hmstr⟩ := hrun k l hp
      exact ⟨hun (by omega), hmstr (by omega), hdata (by omega), hclk (by omega)⟩
    · exact hafter hdone
  | uop _ hp hm hd =>
    obtain ⟨hun, hmstr, hdata, hclk, -⟩ := runUop_keeps_registers hd
    refine ⟨fun hdone => ?_, fun k l hp' => ?_⟩
    · obtain ⟨hun', hmstr', hdata', hclk'⟩ := hafter ((runUop_frame (.inl hd)).initDone ▸ hdone)
      exact ⟨hun hun', hmstr hmstr', hdata hdata', hclk hclk'⟩
    · cases hp'
      exact (initProgress_uop (hrun _ _ hp) hm hd :)
  | spin => exact ⟨hafter, hrun⟩
  | shift r => exact ⟨hafter, hrun⟩
  | load w => exact ⟨hafter, hrun⟩

/-- Settles O49: INIT's last position has all four, and nothing takes one back. -/
theorem initInvariantKept : Obligations.InitInvariantKept := by
  unfold Obligations.InitInvariantKept
  intro s t h hstep
  exact of_step hstep (fun _ hu => hu) fun _ => initOk_transition h

/-! ### What a position guarantees (O50) -/

theorem startedOk_transition {s t : State} (h : StartedOk s) (ht : Transition s t) : StartedOk t := by
  cases ht with
  | fault c => exact h
  | start i _ _ _ hpassed =>
    intro c k l hp hclass hi
    cases hp
    by_contra hdone
    rw [commandCheck_of_not_initDone hclass hi (by simpa using hdone)] at hpassed
    cases hpassed
  | retire =>
    rw [commandRetire_eq]
    intro c k l hp
    cases hp
  | uop _ hp _ hd =>
    intro c k l hp' hclass hi
    cases hp'
    exact (runUop_frame (.inl hd)).initDone.trans (h _ _ _ hp hclass hi)
  | spin => exact h
  | shift r => exact h
  | load w => exact h

/-- Where a µop leads: to a drained position only the full drain or, from another one, a µop that queues nothing; to a
disabled one only uDisable or, from another one, a µop but uEnable; to a body's uSetCfg only its spin, and to its uWriteTDR
only its uSetCfg. -/
structure KeepsPositions (c : Instr) (k : Nat) (u : Uop) (k' : Nat) : Prop where
  drained : drainedAt c k' = true → u = .spinIdle ∨ (drainedAt c k = true ∧ ∀ v, u ≠ .writeTdr v)
  disabled : disabledAt c k' = true → u = .disable ∨ (disabledAt c k = true ∧ u ≠ .enable)
  config : configAt c k' = true → u = .spinTxe
  write : writeAt c k' = true → u = .setCfg (bodyWidth c) Config.divT

section
variable {mem : List Host.Cell} {k k' : Nat} {l l' : Locals} {u : Uop}

/-- A body that writes one value with its own width (43_queuing R123, R124). -/
theorem writeProgram_keepsPositions {c : Instr} {w : Bool} {v : Half} (hw : bodyWidth c = w)
    (hdrained : ∀ k, drainedAt c k = false) (hdisabled : ∀ k, disabledAt c k = false)
    (hconfig : ∀ k, configAt c k = (k == 1)) (hwrite : ∀ k, writeAt c k = (k == 2))
    (h : writeProgram w v k l = .uop u k' l') : KeepsPositions c k u k' := by
  unfold writeProgram at h
  split at h <;> cases h <;> constructor <;> simp [hw, hdrained, hdisabled, hconfig, hwrite]

theorem repProgram_keepsPositions {b : Byte} {n : Word} (h : repProgram b n.toNat k l = .uop u k' l') :
    KeepsPositions (.wrep b n) k u k' := by
  unfold repProgram at h
  split at h
  -- the loop test, at positions 0 and 3
  case h_1 | h_4 =>
    obtain ⟨-, rfl, rfl, -⟩ := repHead_uop h
    constructor <;> simp [drainedAt, disabledAt, writeAt]
  all_goals cases h; constructor <;> simp [drainedAt, disabledAt, configAt, writeAt, bodyWidth]

theorem bvProgram_keepsPositions {b : Byte} {n : Word} (h : bvProgram b n.toNat k l = .uop u k' l') :
    KeepsPositions (.wbv b n) k u k' := by
  unfold bvProgram at h
  split at h
  -- the loop test, at positions 1 and 4
  case h_2 | h_5 =>
    obtain ⟨-, ⟨-, rfl, rfl⟩ | ⟨-, rfl, rfl⟩⟩ := bvHead_uop h <;>
      constructor <;> simp [drainedAt, disabledAt, configAt, writeAt]
  case h_6 => cases h
  all_goals cases h; constructor <;> simp [drainedAt, disabledAt, configAt, writeAt, bodyWidth]

theorem seqProgram_keepsPositions {t : BitVec 3} {a n : Word} (h : seqProgram mem t a n k l = .uop u k' l') :
    KeepsPositions (.wseq t a n) k u k' := by
  unfold seqProgram at h
  split at h
  -- the byte loop's test, at 1 and 4; the post-block loop's, at 5 and 8; the write of a window byte, at 3
  case h_2 | h_5 =>
    obtain ⟨-, ⟨-, rfl, rfl⟩ | ⟨-, rfl, rfl⟩⟩ := seqHead_uop h <;>
      constructor <;> simp [drainedAt, disabledAt, configAt, writeAt]
  case h_6 | h_9 =>
    obtain ⟨-, ⟨-, rfl, rfl⟩ | ⟨-, rfl, rfl⟩⟩ := postHead_uop h <;>
      constructor <;> simp [drainedAt, disabledAt, configAt, writeAt]
  case h_4 => split at h <;> cases h; constructor <;> simp [drainedAt, disabledAt, configAt, writeAt]
  case h_11 => cases h
  all_goals cases h; constructor <;> simp [drainedAt, disabledAt, configAt, writeAt, bodyWidth]

/-- The data pin's µop neither queues nor enables (45_single_bit R129). -/
theorem dataUop_is_pin (b : Bool) : (∀ v, dataUop b ≠ .writeTdr v) ∧ dataUop b ≠ .enable := by
  cases b <;> exact ⟨nofun, nofun⟩

theorem bitProgram_keepsPositions {b : Byte} {x : BitVec 3} (h : bitProgram b x k l = .uop u k' l') :
    KeepsPositions (.wbit b x) k u k' := by
  unfold bitProgram at h
  split at h <;> cases h <;> constructor <;> simp [drainedAt, disabledAt, configAt, writeAt, dataUop_is_pin]

/-- The pixel loop's test spins to a framing bit or to a channel byte, or calls the hook. -/
theorem pixHead_keepsPositions {a : PixArgs} (h : pixHead a l = .uop u k' l') (k : Nat) :
    KeepsPositions (.wpix a) k u k' := by
  obtain ⟨-, ⟨-, -, rfl, rfl⟩ | ⟨-, -, rfl, rfl⟩ | ⟨-, rfl, rfl⟩⟩ := pixHead_uop h <;>
    constructor <;> simp [drainedAt, disabledAt, configAt, writeAt]

theorem pixProgram_keepsPositions {a : PixArgs} (h : pixProgram mem a k l = .uop u k' l') :
    KeepsPositions (.wpix a) k u k' := by
  unfold pixProgram at h
  split at h
  -- the pixel loop's test, at 1 and 2; the post-block loop's, at 17 and 20
  case h_2 =>
    split at h
    · cases h
    · exact pixHead_keepsPositions h 1
  case h_3 => exact pixHead_keepsPositions h 2
  case h_18 | h_21 =>
    obtain ⟨-, ⟨-, rfl, rfl⟩ | ⟨-, rfl, rfl⟩⟩ := postHead_uop h <;>
      constructor <;> simp [drainedAt, disabledAt, configAt, writeAt]
  case h_23 => cases h
  all_goals cases h; constructor <;> simp [drainedAt, disabledAt, configAt, writeAt, bodyWidth, dataUop_is_pin]

/-- The other commands have no such position. -/
theorem commandProgram_keepsPositions {c : Instr} (h : commandProgram c mem k l = .uop u k' l') :
    KeepsPositions c k u k' := by
  cases c
  case wbyte | wword =>
    exact writeProgram_keepsPositions rfl (fun _ => rfl) (fun _ => rfl) (fun _ => rfl) (fun _ => rfl) h
  case wrep => exact repProgram_keepsPositions h
  case wbv => exact bvProgram_keepsPositions h
  case wseq => exact seqProgram_keepsPositions h
  case wbit => exact bitProgram_keepsPositions h
  case wpix => exact pixProgram_keepsPositions h
  all_goals exact ⟨nofun, nofun, nofun, nofun⟩

end

/-- Position 0 guarantees nothing, so a command may start in any state. -/
theorem start_guarantees_nothing (c : Instr) :
    drainedAt c 0 = false ∧ disabledAt c 0 = false ∧ configAt c 0 = false ∧ writeAt c 0 = false := by
  cases c <;> exact ⟨rfl, rfl, rfl, rfl⟩

/-- Only uWriteTDR queues a word (40_execution R89). -/
theorem runUop_idle_of_not_write {u : Uop} {s t : State} (hd : runUop u s = .done t) (hu : ∀ v, u ≠ .writeTdr v) :
    t.idle = s.idle := by
  have h := runUop_done hd
  cases u
  case writeTdr v => exact absurd rfl (hu v)
  all_goals simp_all [State.idle]

/-- Only uEnable sets CTRL.EN (40_execution R90). -/
theorem runUop_en_of_not_enable {u : Uop} {s t : State} (hd : runUop u s = .done t) (hu : u ≠ .enable)
    (hen : s.en = false) : t.en = false := by
  have h := runUop_done hd
  cases u
  case enable => exact absurd rfl hu
  all_goals simp_all

theorem runUop_spinIdle_idle {s t : State} (hd : runUop .spinIdle s = .done t) : t.idle = true := by
  obtain ⟨hidle, rfl⟩ := runUop_done hd
  exact hidle

theorem runUop_disable_en {s t : State} (hd : runUop .disable s = .done t) : t.en = false := by
  obtain ⟨-, rfl⟩ := runUop_done hd
  rfl

theorem runUop_spinTxe_txe {s t : State} (hd : runUop .spinTxe s = .done t) : t.txe = true := by
  obtain ⟨htxe, rfl⟩ := runUop_done hd
  exact htxe

/-- uSetCfg needs TXH empty and leaves it so, with its width and divider in CTRL (40_execution R88). -/
theorem runUop_setCfg_written {w : Bool} {d : Byte} {s t : State} (hd : runUop (.setCfg w d) s = .done t) :
    t.txe = true ∧ t.w16 = w ∧ t.div = d := by
  obtain ⟨-, htxe, rfl⟩ := runUop_done hd
  exact ⟨htxe, rfl, rfl⟩

/-- While SHE has a step the block is not drained (40_execution R101). -/
theorem idle_eq_false_of_sheReady {s : State} (h : s.sheReady = true) : s.idle = false := by
  by_contra hidle
  rw [not_sheReady_of_idle (by simpa using hidle)] at h
  cases h

theorem drainOk_transition {s t : State} (h : DrainOk s) (ht : Transition s t) : DrainOk t := by
  cases ht with
  | fault c => exact h
  | start i =>
    intro c k l hp
    cases hp
    simp [start_guarantees_nothing]
  | retire =>
    rw [commandRetire_eq]
    intro c k l hp
    cases hp
  | @uop i k k' l l' u t _ hp hm hd =>
    intro c k l hp'
    cases hp'
    have hkeep := commandProgram_keepsPositions hm
    obtain ⟨hdrained, hdisabled⟩ := h _ _ _ hp
    refine ⟨fun hat => ?_, fun hat => ?_⟩
    · rw [State.goto_idle]
      obtain rfl | ⟨hat', hu⟩ := hkeep.drained hat
      · exact runUop_spinIdle_idle hd
      · exact (runUop_idle_of_not_write hd hu).trans (hdrained hat')
    · rw [State.goto_en]
      obtain rfl | ⟨hat', hu⟩ := hkeep.disabled hat
      · exact runUop_disable_en hd
      · exact runUop_en_of_not_enable hd hu (hdisabled hat')
  | spin => exact h
  | shift r hready | load w hready =>
    have hbusy := idle_eq_false_of_sheReady hready
    intro c k l hp
    obtain ⟨hdrained, hdisabled⟩ := h c k l hp
    exact ⟨fun hat => absurd (hdrained hat) (by simp [hbusy]), hdisabled⟩

theorem writeOk_transition {s t : State} (h : WriteOk s) (ht : Transition s t) : WriteOk t := by
  cases ht with
  | fault c => exact h
  | start i =>
    intro c k l hp
    cases hp
    simp [start_guarantees_nothing]
  | retire =>
    rw [commandRetire_eq]
    intro c k l hp
    cases hp
  | @uop i k k' l l' u t _ hp hm hd =>
    intro c k l hp'
    cases hp'
    have hkeep := commandProgram_keepsPositions hm
    refine ⟨fun hat => ?_, fun hat => ?_⟩
    · obtain rfl := hkeep.config hat
      exact (runUop_spinTxe_txe hd :)
    · obtain rfl := hkeep.write hat
      exact (runUop_setCfg_written hd :)
  | spin => exact h
  | shift r => exact h
  | load w =>
    intro c k l hp
    obtain ⟨-, hwrite⟩ := h c k l hp
    exact ⟨fun _ => rfl, fun hat => ⟨rfl, (hwrite hat).2⟩⟩

/-- Settles O50: SEQ reaches each position by the µop that brings about what the position guarantees, and SHE only
empties TXH. -/
theorem commandInvariantsKept : Obligations.CommandInvariantsKept := by
  unfold Obligations.CommandInvariantsKept
  intro s t hstarted hdrain hwrite hstep
  exact ⟨of_step hstep (fun _ hu => hu) fun _ => startedOk_transition hstarted,
    of_step hstep (fun _ hu => hu) fun _ => drainOk_transition hdrain,
    of_step hstep (fun _ hu => hu) fun _ => writeOk_transition hwrite⟩

/-! ### The µops of `init` (O26) -/

/-- In master mode the clock stays where it is, or falls to 0 (40_execution R90, R100). -/
theorem runUop_enable_of_mstr {s : State} (h : s.mstr = true) :
    runUop .enable s = .done { s with en := true, rtrace := s.rtrace ++ [.enable] } := by
  rw [runUop_enable, if_neg (by simp [h]), List.append_nil]

section
variable {s : State} {l : Locals}

theorem exec_init_pinOut_data (hp : s.phase = .running .init 0 l) (hen : s.en = false) :
    exec .init s = .next { s with
      dirData := true, rtrace := s.rtrace ++ [.pinOut .data], phase := .running .init 1 l } :=
  exec_of_done hp rfl (runUop_pinOut_data hen)

theorem exec_init_pinOut_clk (hp : s.phase = .running .init 1 l) (hen : s.en = false) :
    exec .init s = .next { s with
      dirClk := true, rtrace := s.rtrace ++ [.pinOut .clk]
      wtrace := s.wtrace ++ (if s.dirClk = false ∧ s.latClk = true then [.glitch s.cs] else [])
      phase := .running .init 2 l } :=
  exec_of_done hp rfl (runUop_pinOut_clk hen)

theorem exec_init_release (hp : s.phase = .running .init 2 l) :
    exec .init s = .next (afterGuard s .release .released .init 3 l) := exec_release hp rfl

theorem exec_init_unlock (hp : s.phase = .running .init 3 l) :
    exec .init s = .next { s with
      unlocked := true, rtrace := s.rtrace ++ [.unlock], phase := .running .init 4 l } :=
  exec_of_done hp rfl (runUop_unlock s)

theorem exec_init_setMaster (hp : s.phase = .running .init 4 l) (hlock : s.unlocked = true) :
    exec .init s = .next { s with
      mstr := true, rtrace := s.rtrace ++ [.master], phase := .running .init 5 l } :=
  exec_of_done hp rfl (runUop_setMaster hlock)

theorem exec_init_setCfg (hp : s.phase = .running .init 5 l) (h : CanConfig s) :
    exec .init s = .next (afterConfig s false .init 6 l) := exec_of_done hp rfl (runUop_setCfg false Config.divT h)

theorem exec_init_enable (hp : s.phase = .running .init 6 l) (hmstr : s.mstr = true) :
    exec .init s = .next { s with
      en := true, rtrace := s.rtrace ++ [.enable], phase := .running .init 7 l } :=
  exec_of_done hp rfl (runUop_enable_of_mstr hmstr)

theorem exec_init_retire (hp : s.phase = .running .init 7 l) :
    exec .init s = .next { s with cp := s.cp + 1, phase := .idle, initDone := true } := exec_of_retire hp rfl

end

/-- Settles O26, from the rule of each µop. -/
theorem initMicroOpsComplete : Obligations.InitMicroOpsComplete := by
  unfold Obligations.InitMicroOpsComplete
  refine fun s l => ⟨exec_init_pinOut_data, exec_init_pinOut_clk, exec_init_release, exec_init_unlock,
    exec_init_setMaster, exec_init_setCfg, exec_init_enable, exec_init_retire, ?_, ?_,
    fun hp hlock htxh => exec_of_raised hp rfl (runUop_setCfg_pending false Config.divT hlock htxh)⟩
  · rintro k (rfl | rfl) hp hen
    · exact exec_of_raised hp rfl (runUop_pinOut_enabled .data hen)
    · exact exec_of_raised hp rfl (runUop_pinOut_enabled .clk hen)
  · rintro k (rfl | rfl) hp hlock
    · exact exec_of_raised hp rfl (runUop_setMaster_locked hlock)
    · exact exec_of_raised hp rfl (runUop_setCfg_locked false Config.divT hlock)

/-! ### A whole `init` (O25) -/

theorem execRun_succ {i : Instr} {n : Nat} {s t : State} (h : exec i s = .next t) :
    execRun i (n + 1) s = execRun i n t := by
  rw [execRun, h]

/-- Before INIT the decode step starts `init` (42_init_select R120). -/
theorem exec_init_start {s : State} (hp : s.phase = .idle) (hdone : s.initDone = false) :
    exec .init s = .next (s.start .init Locals.start) := by
  have hcheck : commandCheck .init s = none := by simp [commandCheck, reinitCheck, hdone]
  rw [exec_idle hp, hcheck]

/-- Settles O25: the decode step, the seven µops and the retire step, one after the other. -/
theorem initConfiguresTheBlock : Obligations.InitConfiguresTheBlock := by
  unfold Obligations.InitConfiguresTheBlock
  intro s hp hdone hen htxh
  rw [execRun_succ (exec_init_start hp hdone), execRun_succ (exec_init_pinOut_data rfl (by exact hen)),
    execRun_succ (exec_init_pinOut_clk rfl (by exact hen)), execRun_succ (exec_init_release rfl),
    execRun_succ (exec_init_unlock rfl), execRun_succ (exec_init_setMaster rfl rfl),
    execRun_succ (exec_init_setCfg rfl (by exact ⟨rfl, htxh⟩)), execRun_succ (exec_init_enable rfl rfl),
    execRun_succ (exec_init_retire rfl)]
  simp [execRun, afterGuard, afterConfig, hp]
  rfl

end Sys2Proof.Proofs
end

section
/-! The queuing family (43_queuing): the µops of a body that queues one value, a whole `wbyte` or `wword`, and the one fault
that a running S-class command other than `init` can raise. -/

namespace Sys2Proof.Proofs

open Sys2Proof Sys2Proof.Machine Sys2Proof.Safety

/-! ### The µops of a body that queues one value (O28) -/

section
variable {c : Instr} {s : State} {k k' : Nat} {l l' : Locals}

/-- A body's uSetCfg sets its width and the transport's divider (40_execution R88). -/
theorem exec_setCfg {w : Bool} (hp : s.phase = .running c k l)
    (hm : commandProgram c s.mem k l = .uop (.setCfg w Config.divT) k' l') (h : CanConfig s) :
    exec c s = .next (afterConfig s w c k' l') := exec_of_done hp hm (runUop_setCfg w Config.divT h)

theorem exec_writeTdr {v : Half} (hp : s.phase = .running c k l)
    (hm : commandProgram c s.mem k l = .uop (.writeTdr v) k' l') (h : CanQueue s v) :
    exec c s = .next (afterQueue s v c k' l') := exec_of_done hp hm (runUop_writeTdr h)

theorem exec_writeTdr_disabled {v : Half} (hp : s.phase = .running c k l)
    (hm : commandProgram c s.mem k l = .uop (.writeTdr v) k' l') (h : s.en = false ∨ s.mstr = false) :
    exec c s = .next (afterFault s .writeWhileDisabled) := exec_of_raised hp hm (runUop_writeTdr_disabled v h)

end

/-- Settles O28, from the rule of each µop. -/
theorem wbyteAndWwordQueueTheirWord : Obligations.WbyteAndWwordQueueTheirWord := by
  unfold Obligations.WbyteAndWwordQueueTheirWord
  constructor <;> intro v s l <;> exact
    ⟨fun hp => (exec_spinTxe hp rfl).1, fun hp => (exec_spinTxe hp rfl).2, fun hp => exec_setCfg hp rfl,
      fun hp => exec_writeTdr hp rfl, fun hp => exec_writeTdr_disabled hp rfl⟩

/-! ### A whole `wbyte` or `wword` (O29) -/

/-- A command whose program is one write body, run from its decode step to its retire step on an empty TXH: the spin
completes at its first poll, and the write captures the body's own width and divider (43_queuing R123, R124). -/
theorem execRun_writeProgram {c : Instr} {w : Bool} {v : Half} {s : State}
    (hprogram : ∀ mem, commandProgram c mem = writeProgram w v)
    (hretire : ∀ s, commandRetire c s = { s with cp := s.cp + 1, phase := .idle })
    (hcheck : commandCheck c s = none) (hv : w = false → v.extractLsb' 8 8 = 0#8) (hp : s.phase = .idle)
    (hlock : s.unlocked = true) (hen : s.en = true) (hmstr : s.mstr = true) (htxh : s.txh = none) :
    execRun c 5 s = .next { s with
      cp := s.cp + 1, w16 := w, div := Config.divT, txh := some { v := v, w16 := w, div := Config.divT }
      rtrace := s.rtrace ++ [.poll true s.idle, .cfg w Config.divT, .queue v w] } := by
  have hstart : exec c s = .next (s.start c Locals.start) := by rw [exec_idle hp, hcheck]
  have htxe : s.txe = true := by simp [State.txe, htxh]
  rw [execRun_succ hstart, execRun_succ ((exec_spinTxe rfl (congrFun₂ (hprogram _) 0 _)).1 (by exact htxe)),
    execRun_succ (exec_setCfg rfl (congrFun₂ (hprogram _) 1 _) (by exact ⟨hlock, htxh⟩)),
    execRun_succ (exec_writeTdr rfl (congrFun₂ (hprogram _) 2 _) (by exact ⟨hen, hmstr, htxh, hv, divT_ne_zero⟩)),
    execRun_succ (exec_of_retire rfl (congrFun₂ (hprogram _) 3 _)), hretire]
  simp [execRun, afterPoll, afterConfig, afterQueue, hp, htxe]

/-- Settles O29: both commands are one write body, of 8 and of 16 bits. -/
theorem writeRetiresWithTheWordInTxh : Obligations.WriteRetiresWithTheWordInTxh := by
  unfold Obligations.WriteRetiresWithTheWordInTxh
  intro s hp hdone hlock hen hmstr htxh
  have hcheck := initialisedCheck_of_initDone hdone
  exact ⟨fun b => execRun_writeProgram (fun _ => rfl) (fun _ => rfl) hcheck (fun _ => zext16_high b) hp hlock hen hmstr
      htxh,
    fun w => execRun_writeProgram (fun _ => rfl) (fun _ => rfl) hcheck nofun hp hlock hen hmstr htxh⟩

/-! ### What a running S-class command can fault with (O53) -/

/-- Where a µop that can fault may stand: each where the position guarantees what the µop asks for (40_execution R88-R96),
the write of an 8-bit body with no bit above 7. Enabling and the guard ask for nothing; `init` alone needs the rest. -/
def GuardedAt (c : Instr) (k : Nat) (u : Uop) : Prop :=
  match u with
  | .setCfg _ _ => configAt c k = true
  | .writeTdr v => writeAt c k = true ∧ (bodyWidth c = false → v.extractLsb' 8 8 = 0#8)
  | .disable => drainedAt c k = true
  | .pinHigh _ => disabledAt c k = true
  | .pinLow _ => disabledAt c k = true
  | .setMaster => False
  | .pinOut _ => False
  | _ => True

section
variable {mem : List Host.Cell} {k k' : Nat} {l l' : Locals} {u : Uop}

theorem writeProgram_guarded {c : Instr} {w : Bool} {v : Half} (hconfig : ∀ k, configAt c k = (k == 1))
    (hwrite : ∀ k, writeAt c k = (k == 2)) (hv : bodyWidth c = false → v.extractLsb' 8 8 = 0#8)
    (h : writeProgram w v k l = .uop u k' l') : GuardedAt c k u := by
  unfold writeProgram at h
  split at h <;> cases h
  case h_1 => trivial
  case h_2 => exact hconfig 1
  case h_3 => exact ⟨hwrite 2, hv⟩

theorem repProgram_guarded {b : Byte} {n : Word} (h : repProgram b n.toNat k l = .uop u k' l') :
    GuardedAt (.wrep b n) k u := by
  unfold repProgram at h
  split at h
  case h_1 | h_4 => obtain ⟨-, rfl, -, -⟩ := repHead_uop h; trivial
  case h_2 => cases h; rfl
  case h_3 => cases h; exact ⟨rfl, fun _ => zext16_high b⟩

theorem bvProgram_guarded {b : Byte} {n : Word} (h : bvProgram b n.toNat k l = .uop u k' l') :
    GuardedAt (.wbv b n) k u := by
  unfold bvProgram at h
  split at h
  case h_1 => cases h; trivial
  case h_2 | h_5 => obtain ⟨-, ⟨-, rfl, -⟩ | ⟨-, rfl, -⟩⟩ := bvHead_uop h <;> trivial
  case h_3 => cases h; rfl
  case h_4 => cases h; exact ⟨rfl, fun _ => zext16_high b⟩
  case h_6 => cases h

/-- The post-block loop's test spins, so it stands anywhere. -/
theorem postHead_guarded {kByte kRelease : Nat} (h : postHead kByte kRelease l = .uop u k' l') (c : Instr) (k : Nat) :
    GuardedAt c k u := by
  obtain ⟨-, ⟨-, rfl, -⟩ | ⟨-, rfl, -⟩⟩ := postHead_uop h <;> trivial

theorem seqProgram_guarded {t : BitVec 3} {a n : Word} (h : seqProgram mem t a n k l = .uop u k' l') :
    GuardedAt (.wseq t a n) k u := by
  unfold seqProgram at h
  split at h
  case h_1 | h_10 => cases h; trivial
  case h_2 | h_5 => obtain ⟨-, ⟨-, rfl, -⟩ | ⟨-, rfl, -⟩⟩ := seqHead_uop h <;> trivial
  case h_6 | h_9 => exact postHead_guarded h _ _
  case h_3 | h_7 => cases h; rfl
  case h_4 => split at h <;> cases h; exact ⟨rfl, fun _ => zext16_high _⟩
  case h_8 => cases h; exact ⟨rfl, fun _ => zext16_high _⟩
  case h_11 => cases h

/-- The data pin's µop stands where the peripheral is off. -/
theorem dataUop_guarded {c : Instr} (h : disabledAt c k = true) (b : Bool) : GuardedAt c k (dataUop b) := by
  cases b <;> exact h

theorem bitProgram_guarded {b : Byte} {x : BitVec 3} (h : bitProgram b x k l = .uop u k' l') :
    GuardedAt (.wbit b x) k u := by
  unfold bitProgram at h
  split at h <;> cases h
  case h_3 => exact dataUop_guarded rfl _
  case h_1 | h_6 => trivial
  all_goals rfl

/-- The pixel loop's test spins or calls the hook, so it stands anywhere. -/
theorem pixHead_guarded {a : PixArgs} (h : pixHead a l = .uop u k' l') (c : Instr) (k : Nat) : GuardedAt c k u := by
  obtain ⟨-, ⟨-, -, rfl, -⟩ | ⟨-, -, rfl, -⟩ | ⟨-, rfl, -⟩⟩ := pixHead_uop h <;> trivial

theorem pixProgram_guarded {a : PixArgs} (h : pixProgram mem a k l = .uop u k' l') : GuardedAt (.wpix a) k u := by
  unfold pixProgram at h
  split at h
  case h_2 =>
    split at h
    · cases h
    · exact pixHead_guarded h _ _
  case h_3 => exact pixHead_guarded h _ _
  case h_18 | h_21 => exact postHead_guarded h _ _
  case h_23 => cases h
  all_goals cases h
  -- the data pin's µop, at 4; the channel bytes, at 10, 13 and 16; the post-block bytes, at 19
  case h_5 => exact dataUop_guarded rfl _
  case h_11 | h_14 | h_17 | h_20 => exact ⟨rfl, fun _ => zext16_high _⟩
  case h_4 | h_6 | h_7 | h_10 | h_13 | h_16 | h_19 => rfl
  all_goals trivial

theorem commandProgram_guarded {c : Instr} (hclass : c.isSClass = true) (hi : c ≠ .init)
    (h : commandProgram c mem k l = .uop u k' l') : GuardedAt c k u := by
  cases c
  case init => exact absurd rfl hi
  case sel | rel | widle => simp only [commandProgram, singleUop] at h; split at h <;> cases h; trivial
  case wbyte b => exact writeProgram_guarded (fun _ => rfl) (fun _ => rfl) (fun _ => zext16_high b) h
  case wword => exact writeProgram_guarded (fun _ => rfl) (fun _ => rfl) nofun h
  case wrep => exact repProgram_guarded h
  case wbv => exact bvProgram_guarded h
  case wseq => exact seqProgram_guarded h
  case wbit => exact bitProgram_guarded h
  case wpix => exact pixProgram_guarded h
  all_goals simp [Instr.isSClass, Instr.opcode] at hclass

end

/-- What a position guarantees rules out every fault of the µop there but the write to a disabled peripheral. -/
theorem runUop_raised_of_guarded {s : State} {c : Instr} {k : Nat} {l : Locals} {u : Uop} {e : FaultCode}
    (hinit : InitOk s) (hdone : s.initDone = true) (hdrain : DrainOk s) (hwrite : WriteOk s)
    (hp : s.phase = .running c k l) (hu : GuardedAt c k u) (hr : runUop u s = .raised e) :
    e = .writeWhileDisabled ∧ s.en = false ∧ writeAt c k = true := by
  obtain ⟨hlock, hmstr, hdata, hclk⟩ := hinit.1 hdone
  obtain ⟨hdrained, hdisabled⟩ := hdrain c k l hp
  obtain ⟨hconfig, hready⟩ := hwrite c k l hp
  have hraised := runUop_raised hr
  cases u
  case setCfg =>
    obtain ⟨h, -⟩ | ⟨-, h, -⟩ := hraised
    · simp [hlock] at h
    · simp [hconfig hu] at h
  case writeTdr v =>
    obtain ⟨hat, hv⟩ := hu
    obtain ⟨htxe, hw, hdiv⟩ := hready hat
    obtain ⟨h, rfl⟩ | ⟨-, -, h, -⟩ | ⟨-, -, -, ⟨hw8, h⟩ | h, -⟩ := hraised
    · exact ⟨rfl, h.resolve_right (by simp [hmstr]), hat⟩
    · simp [htxe] at h
    · exact absurd (hv (hw ▸ hw8)) h
    · exact absurd (hdiv ▸ h) divT_ne_zero
  case disable => simp [hdrained hu] at hraised
  case pinHigh p | pinLow p => cases p <;> simp [hdisabled hu, State.dir, hdata, hclk] at hraised
  case setMaster | pinOut => exact hu.elim
  all_goals exact hraised.elim

/-- SEQ's step in a running command faults only by the µop it performs; its retire step faults never (60_exceptions R136). -/
theorem exec_running_fault {s t : State} {c : Instr} {k : Nat} {l : Locals} (hp : s.phase = .running c k l)
    (h : exec c s = .next t) :
    t.fault = s.fault ∨
      ∃ u k' l' e, commandProgram c s.mem k l = .uop u k' l' ∧ runUop u s = .raised e ∧ t.fault = some e := by
  obtain ⟨hidle, -⟩ | ⟨_, _, _, hp', ⟨-, rfl⟩ | ⟨u, k', l', hm, ⟨t', hd, rfl⟩ | ha | ⟨e, hr, rfl⟩⟩⟩ := exec_next h
  · rw [hp] at hidle
    cases hidle
  · exact .inl (by rw [commandRetire_eq])
  · exact .inl (runUop_frame (.inl hd)).fault
  · exact .inl (runUop_frame (.inr ha)).fault
  · rw [hp] at hp'
    cases hp'
    exact .inr ⟨u, k', l', e, hm, hr, rfl⟩

/-- SHE raises no fault (40_execution R102, R103). -/
theorem sheStep_fault (s : State) : (sheStep s).fault = s.fault := by
  unfold sheStep
  repeat' split
  all_goals rfl

/-- The block's step faults in a running command only where SEQ's does. -/
theorem step_running_fault {s t : State} {c : Instr} {k : Nat} {l : Locals} (hf : s.fault = none)
    (hp : s.phase = .running c k l) (h : step s = .next t) :
    t.fault = none ∨
      ∃ u k' l' e, commandProgram c s.mem k l = .uop u k' l' ∧ runUop u s = .raised e ∧ t.fault = some e := by
  obtain ⟨t', hmoves, ht⟩ := step_moves h
  have hfault : t.fault = t'.fault := by obtain rfl | rfl := ht <;> rfl
  rw [hfault]
  obtain hseq | ⟨-, rfl⟩ := hmoves
  · have hexec : exec c s = .next t' := (seqStep_eq_exec hf (.inr ⟨k, l, hp⟩)).symm.trans hseq
    exact hf ▸ exec_running_fault hp hexec
  · exact .inl ((sheStep_fault s).trans hf)

/-- Settles O53: each µop of such a command stands where its position rules out its faults, a write's EN apart; a `wbit`
has no write. -/
theorem sClassRunsOnlyFaultWhenDisabled : Obligations.SClassRunsOnlyFaultWhenDisabled := by
  unfold Obligations.SClassRunsOnlyFaultWhenDisabled
  intro s t c k l hinit hstarted hdrain hwrite hf hp hclass hi hstep
  have honly : t.fault = none ∨ (t.fault = some .writeWhileDisabled ∧ s.en = false ∧ writeAt c k = true) := by
    obtain hnone | ⟨u, k', l', e, hm, hr, he⟩ := step_running_fault hf hp hstep
    · exact .inl hnone
    · obtain ⟨rfl, hen, hat⟩ := runUop_raised_of_guarded hinit (hstarted c k l hp hclass hi) hdrain hwrite hp
        (commandProgram_guarded hclass hi hm) hr
      exact .inr ⟨he, hen, hat⟩
  refine ⟨honly, ?_⟩
  rintro ⟨b, x, rfl⟩
  exact honly.resolve_right fun ⟨_, _, hat⟩ => by simp [writeAt] at hat

end Sys2Proof.Proofs
end

section
/-! The bracketed family (44_bracketed): what a loop test asks for once its condition is known, the µops of `wrep`,
`wbv` and `wseq`, whole empty transactions, and the drain before a release. -/

namespace Sys2Proof.Proofs

open Sys2Proof Sys2Proof.Machine Sys2Proof.Safety

/-! ### What a loop test asks for (44_bracketed R126-R128) -/

section
variable {mem : List Host.Cell} {l : Locals} {n : Nat} {a len : Word}

theorem repHead_of_lt (h : l.i < n) : repHead n l = .uop .spinTxe 1 l := if_pos h

theorem bvHead_of_lt (h : l.i < n) : bvHead n l = .uop .spinTxe 2 l := if_pos h

theorem bvHead_of_ge (h : n ≤ l.i) : bvHead n l = .uop .release 5 l := if_neg (Nat.not_lt.2 h)

theorem seqHead_of_read {b : Byte} (h : l.i < len.toNat) (hr : Memory.read mem (a.toNat + l.i) = some b) :
    seqHead mem a len l = .uop .spinTxe 2 l := by
  simp [seqHead, h, windowByte, hr]

theorem seqHead_of_ge (h : len.toNat ≤ l.i) : seqHead mem a len l = .uop (.postBlock len.toNat) 5 l :=
  if_neg (Nat.not_lt.2 h)

theorem seqProgram_write {t : BitVec 3} {b : Byte} (hr : Memory.read mem (a.toNat + l.i) = some b) :
    seqProgram mem t a len 3 l = .uop (.writeTdr (zext16 (Config.adjust t b))) 4 l := by
  simp [seqProgram, windowByte, hr]

theorem postHead_of_nil {kByte kRelease : Nat} (h : l.post = []) :
    postHead kByte kRelease l = .uop .spinIdle kRelease l := by
  simp [postHead, h]

theorem postHead_of_ne_nil {kByte kRelease : Nat} (h : l.post ≠ []) :
    postHead kByte kRelease l = .uop .spinTxe kByte l := by
  obtain ⟨c, cs, hpost⟩ := List.exists_cons_of_ne_nil h
  simp [postHead, hpost]

theorem postWrite_of_cons {c : Byte} {cs : List Byte} (h : l.post = c :: cs) : postWrite l = .writeTdr (zext16 c) := by
  simp [postWrite, h]

end

section
variable {c : Instr} {s : State} {k k' : Nat} {l l' : Locals}

theorem exec_postBlock {n : Nat} (hp : s.phase = .running c k l)
    (hm : commandProgram c s.mem k l = .uop (.postBlock n) k' l') :
    exec c s = .next (afterEvent s (.postBlock n) c k' l') := exec_of_done hp hm rfl

/-- The post-block loop's test polls for the next byte, or for the full drain once none is left, and goes on to the
byte's uSetCfg or to the release (44_bracketed R128). -/
theorem exec_postHead {kByte kRelease : Nat} (hp : s.phase = .running c k l)
    (hm : commandProgram c s.mem k l = postHead kByte kRelease l') :
    ((if l'.post = [] then s.idle = true else s.txe = true) →
      exec c s = .next (afterPoll s c (if l'.post = [] then kRelease else kByte) l')) ∧
    ((if l'.post = [] then s.idle = false else s.txe = false) → exec c s = .next (afterPoll s c k l)) := by
  by_cases h : l'.post = []
  · simpa only [h, if_true] using exec_spinIdle hp (hm.trans (postHead_of_nil h))
  · simpa only [h, if_false] using exec_spinTxe hp (hm.trans (postHead_of_ne_nil h))

end

/-! ### The µops of `wrep`, `wbv` and `wseq` (O30 to O33) -/

/-- Settles O30, from the rule of each µop; the loop test is the same at both its positions. -/
theorem wrepQueuesByteByByte : Obligations.WrepQueuesByteByByte := by
  unfold Obligations.WrepQueuesByteByByte
  intro b n s l
  refine ⟨fun hp hi => (exec_spinTxe hp (repHead_of_lt hi)).1, fun hp => exec_setCfg hp rfl,
    fun hp => exec_writeTdr hp rfl, fun hp hi => (exec_spinTxe hp (repHead_of_lt (l := { l with i := l.i + 1 }) hi)).1,
    ?_, fun hp => exec_writeTdr_disabled hp rfl⟩
  rintro k (⟨rfl, hi⟩ | ⟨rfl, hi⟩) hp
  · exact (exec_spinTxe hp (repHead_of_lt hi)).2
  · exact (exec_spinTxe hp (repHead_of_lt (l := { l with i := l.i + 1 }) hi)).2

/-- Settles O31, from the rule of each µop; past the last byte the loop test is the release itself. -/
theorem wbvReleasesWithoutDraining : Obligations.WbvReleasesWithoutDraining := by
  unfold Obligations.WbvReleasesWithoutDraining
  intro b n s l
  refine ⟨fun hp => exec_select hp rfl, fun hp hi => (exec_spinTxe hp (bvHead_of_lt hi)).1,
    fun hp => exec_setCfg hp rfl, fun hp => exec_writeTdr hp rfl,
    fun hp hi => (exec_spinTxe hp (bvHead_of_lt (l := { l with i := l.i + 1 }) hi)).1,
    fun hp hge => exec_release hp (bvHead_of_ge hge),
    fun hp hge => exec_release hp (bvHead_of_ge (l := { l with i := l.i + 1 }) hge), ?_,
    fun hp => exec_writeTdr_disabled hp rfl⟩
  rintro k (⟨rfl, hi⟩ | ⟨rfl, hi⟩) hp
  · exact (exec_spinTxe hp (bvHead_of_lt hi)).2
  · exact (exec_spinTxe hp (bvHead_of_lt (l := { l with i := l.i + 1 }) hi)).2

/-- Settles O32, from the rule of each µop; an admitted byte of the window lets the loop test and the write go on. -/
theorem wseqQueuesAdjustedWindowBytes : Obligations.WseqQueuesAdjustedWindowBytes := by
  unfold Obligations.WseqQueuesAdjustedWindowBytes
  intro t a n s l
  refine ⟨fun hp => exec_select hp rfl, fun b hp hi hr => (exec_spinTxe hp (seqHead_of_read hi hr)).1,
    fun hp => exec_setCfg hp rfl, fun b hp hr => exec_writeTdr hp (seqProgram_write (len := n) hr),
    fun b hp hi hr => (exec_spinTxe hp (seqHead_of_read (l := { l with i := l.i + 1 }) hi hr)).1,
    fun hp hge => exec_postBlock hp (seqHead_of_ge hge),
    fun hp hge => exec_postBlock hp (seqHead_of_ge (l := { l with i := l.i + 1 }) hge), ?_,
    fun b hp hr => exec_writeTdr_disabled hp (seqProgram_write (len := n) hr)⟩
  rintro b k i (⟨rfl, rfl⟩ | ⟨rfl, rfl⟩) hp hi hr
  · exact (exec_spinTxe hp (seqHead_of_read hi hr)).2
  · exact (exec_spinTxe hp (seqHead_of_read (l := { l with i := l.i + 1 }) hi hr)).2

/-- Settles O33, from the post-block loop's test and the rule of each µop. -/
theorem wseqDrainsBeforeItsRelease : Obligations.WseqDrainsBeforeItsRelease := by
  unfold Obligations.WseqDrainsBeforeItsRelease
  intro t a n s l c cs
  refine ⟨fun hp => (exec_postHead hp rfl).1, fun hp => exec_setCfg hp rfl,
    fun hp hpost => exec_writeTdr hp (congrArg (Micro.uop · 8 l) (postWrite_of_cons hpost)),
    fun hp htail => by simpa [htail] using (exec_postHead hp rfl).1,
    fun hp htail => by simpa [htail] using (exec_postHead hp rfl).1, fun hp => exec_release hp rfl, ?_,
    fun hp => exec_writeTdr_disabled hp rfl⟩
  rintro k p (⟨rfl, rfl⟩ | ⟨rfl, rfl⟩) hp
  · exact (exec_postHead hp rfl).2
  · exact (exec_postHead hp rfl).2

/-! ### Empty transactions (O40) -/

theorem idle_iff {s : State} : s.idle = true ↔ s.txh = none ∧ s.sr = none := by simp [State.idle]

/-- The decode step of a command that passes its checks (40_execution R80). -/
theorem exec_idle_of_passed {i : Instr} {s : State} (hp : s.phase = .idle) (hcheck : commandCheck i s = none) :
    exec i s = .next (s.start i Locals.start) := by
  rw [exec_idle hp, hcheck]

/-- A bracketed command without bytes, decode to retire, on a drained block: the select, the hook on an empty window,
the drain's one poll, the release (44_bracketed R128, 46_pixel_stream R130). -/
theorem execRun_emptyBracket {c : Instr} {s : State} {kHook kRelease kLast : Nat} {l l' : Locals} (hc : c ≠ .init)
    (hcheck : commandCheck c s = none)
    (hselect : ∀ mem, commandProgram c mem 0 Locals.start = .uop .select 1 Locals.start)
    (hhook : ∀ mem, commandProgram c mem 1 Locals.start = .uop (.postBlock 0) kHook l)
    (hdrain : ∀ mem, commandProgram c mem kHook l = .uop .spinIdle kRelease l')
    (hrelease : ∀ mem, commandProgram c mem kRelease l' = .uop .release kLast l')
    (hretire : ∀ mem, commandProgram c mem kLast l' = .retire) (hp : s.phase = .idle) (hidle : s.idle = true) :
    execRun c 6 s = .next { s with
      cp := s.cp + 1 + c.nExt, cs := if Config.guardPresent then .released else s.cs
      rtrace := s.rtrace ++ [.select, .postBlock 0, .poll true true, .release]
      wtrace := s.wtrace ++ (if Config.guardPresent then [.cs .asserted, .cs .released] else []) } := by
  obtain ⟨htxh, hsr⟩ := idle_iff.1 hidle
  rw [execRun_succ (exec_idle_of_passed hp hcheck), execRun_succ (exec_select rfl (hselect _)),
    execRun_succ (exec_postBlock rfl (hhook _)), execRun_succ ((exec_spinIdle rfl (hdrain _)).1 (by exact hidle)),
    execRun_succ (exec_release rfl (hrelease _)), execRun_succ (exec_of_retire rfl (hretire _)), commandRetire_eq]
  cases hg : Config.guardPresent <;>
    simp [execRun, afterGuard, afterEvent, afterPoll, State.txe, State.idle, hc, hp, htxh, hsr, hg]

/-- The hook of the identity transform queues nothing (00_scope R8). -/
theorem postBlock_identity (n : Nat) : Config.postBlock 0#3 n = [] := rfl

/-- A hook that queues nothing leaves the drain (44_bracketed R128, 46_pixel_stream R130). -/
theorem seqProgram_drain (mem : List Host.Cell) {t : BitVec 3} (a len : Word) {l : Locals}
    (h : Config.postBlock t len.toNat = []) :
    seqProgram mem t a len 5 l = .uop .spinIdle 9 { l with post := [] } := by
  simp [seqProgram, postHead, h]

theorem pixProgram_drain (mem : List Host.Cell) {a : PixArgs} {l : Locals}
    (h : Config.postBlock a.tsel a.len.toNat = []) :
    pixProgram mem a 17 l = .uop .spinIdle 21 { l with post := [] } := by
  simp [pixProgram, postHead, h]

/-- Settles O40: an empty `wrep` retires at its first loop test, and an empty bracket leaves each loop at its first
test. -/
theorem emptyTransactionsStillBracket : Obligations.EmptyTransactionsStillBracket := by
  unfold Obligations.EmptyTransactionsStillBracket
  intro s hp hdone hidle
  refine ⟨fun b => ?_, fun b => ?_, fun a => ?_, fun a htsel hlen => ?_⟩
  · have hcheck : commandCheck (.wrep b 0#32) s = none := initialisedCheck_of_initDone hdone
    have hend : repHead 0 Locals.start = .retire := repHead_retire_iff.2 le_rfl
    rw [execRun_succ (exec_idle_of_passed hp hcheck), execRun_succ (exec_of_retire rfl (by exact hend)),
      commandRetire_eq]
    simp [execRun, State.start, hp, Instr.nExt]
  · have hcheck : commandCheck (.wbv b 0#32) s = none := initialisedCheck_of_initDone hdone
    have hend : bvHead 0 Locals.start = .uop .release 5 Locals.start := bvHead_of_ge le_rfl
    rw [execRun_succ (exec_idle_of_passed hp hcheck), execRun_succ (exec_select rfl rfl),
      execRun_succ (exec_release rfl (by exact hend)), execRun_succ (exec_of_retire rfl rfl), commandRetire_eq]
    cases hg : Config.guardPresent <;> simp [execRun, State.start, afterGuard, hp, hg, Instr.nExt]
  · have hcheck : commandCheck (.wseq 0#3 a 0#32) s = none :=
      commandCheck_of_initDone nofun hdone (fun _ _ _ h => by cases h; exact a.isLt.le) nofun
    have hhook (mem) : commandProgram (.wseq 0#3 a 0#32) mem 1 Locals.start = .uop (.postBlock 0) 5 Locals.start :=
      seqHead_of_ge (mem := mem) (a := a) (len := 0#32) le_rfl
    exact execRun_emptyBracket nofun hcheck (fun _ => rfl) hhook
      (fun mem => seqProgram_drain mem a 0#32 (postBlock_identity 0)) (fun _ => rfl) (fun _ => rfl) hp hidle
  · have hcheck : commandCheck (.wpix a) s = none := commandCheck_of_initDone nofun hdone nofun fun _ h => by
      cases h
      simpa [hlen] using a.addr.isLt.le
    have hhook (mem) : commandProgram (.wpix a) mem 1 Locals.start =
        .uop (.postBlock 0) 17 { Locals.start with sigma := pixSource a [], rem := 0 } := by
      simp [commandProgram, pixProgram, window, readBytes, pixHead, hlen]
    exact execRun_emptyBracket nofun hcheck (fun _ => rfl) hhook
      (fun mem => pixProgram_drain mem (htsel ▸ postBlock_identity _)) (fun _ => rfl) (fun _ => rfl) hp hidle

/-! ### The drain before the release (O54) -/

/-- A release at a drained position finds SHE at rest, so it is the block's step (40_execution R78, R101). -/
theorem step_release_of_drained {s : State} {c : Instr} {k k' : Nat} {l l' : Locals} (hdrain : DrainOk s)
    (hf : s.fault = none) (hp : s.phase = .running c k l) (hat : drainedAt c k = true)
    (hm : commandProgram c s.mem k l = .uop .release k' l') :
    s.idle = true ∧ step s = .next (afterGuard s .release .released c k' l') := by
  have hidle := (hdrain c k l hp).1 hat
  exact ⟨hidle, (step_eq_exec_of_running hp hf (not_sheReady_of_idle hidle)).trans (exec_release hp hm)⟩

/-- Settles O54: both releases stand at a drained position, and at full drain the wire has every queued bit. -/
theorem bracketReleasesAfterFullDrain : Obligations.BracketReleasesAfterFullDrain := by
  unfold Obligations.BracketReleasesAfterFullDrain
  intro s t c k l hdrain hwire hf hp hc hstep
  obtain ⟨hat, k', hm⟩ : drainedAt c k = true ∧ ∃ k', commandProgram c s.mem k l = .uop .release k' l := by
    obtain ⟨⟨u, a, n, rfl⟩, rfl⟩ | ⟨⟨a, rfl⟩, rfl⟩ := hc
    · exact ⟨rfl, 10, rfl⟩
    · exact ⟨rfl, 22, rfl⟩
  obtain ⟨hidle, hrelease⟩ := step_release_of_drained hdrain hf hp hat hm
  obtain rfl : t = afterGuard s .release .released c k' l := Host.Outcome.next.inj (hstep.symm.trans hrelease)
  obtain ⟨htxh, hsr⟩ := idle_iff.1 hidle
  exact ⟨hidle, rfl, wireCarriesTheQueuedWords.2 s hwire hidle, htxh, hsr⟩

end Sys2Proof.Proofs
end

section
/-! The single-bit family (45_single_bit): the µops of a framing bit under the premises that INIT establishes, stated for
whatever command emits the bit, and `wbit`, a framing bit and nothing else. -/

namespace Sys2Proof.Proofs

open Sys2Proof Sys2Proof.Machine Sys2Proof.Safety

/-! ### The µops of a framing bit -/

section
variable {c : Instr} {s : State} {k k' : Nat} {l l' : Locals}

/-- An enabled master holds the clock at 0, so the disable lets a high latch raise it; a disabled one has let it rise
already (70_reset R164). -/
theorem latClk_and_wireClk_low_iff (hmstr : s.mstr = true) (hdir : s.dirClk = true) :
    (s.latClk = true ∧ s.wireClk = .low) ↔ (s.latClk = true ∧ s.en = true) := by
  cases hen : s.en <;> cases hlat : s.latClk <;> simp [State.wireClk, levelOf, hmstr, hdir, hen, hlat]

/-- A clock output never floats in master mode (10_state R33). -/
theorem wireClk_ne_hiZ (hmstr : s.mstr = true) (hdir : s.dirClk = true) : s.wireClk ≠ .hiZ := by
  cases hen : s.en <;> cases hlat : s.latClk <;> simp [State.wireClk, levelOf, hmstr, hdir, hen, hlat]

/-- The disable's one wire event is the drawn edge (40_execution R91, R100). -/
theorem exec_disable_of_mstr (hp : s.phase = .running c k l) (hm : commandProgram c s.mem k l = .uop .disable k' l')
    (hidle : s.idle = true) (hmstr : s.mstr = true) (hdir : s.dirClk = true) :
    exec c s = .next { s with
      en := false, rtrace := s.rtrace ++ [.disable]
      wtrace := s.wtrace ++
        (if s.latClk = true ∧ s.en = true then [.edge (Config.drawBit s.drawIx) s.cs .mux none] else [])
      drawIx := if s.latClk = true ∧ s.en = true then s.drawIx + 1 else s.drawIx
      phase := .running c k' l' } := by
  rw [exec_of_done hp hm (runUop_disable hidle)]
  simp [State.goto, hdir, latClk_and_wireClk_low_iff hmstr hdir, wireClk_ne_hiZ hmstr hdir]

/-- The data latch takes the selected bit, by the pin µop of its level (45_single_bit R129). -/
theorem exec_dataUop {b : Bool} (hp : s.phase = .running c k l)
    (hm : commandProgram c s.mem k l = .uop (dataUop b) k' l') (hen : s.en = false) (hdir : s.dirData = true) :
    exec c s = .next { s with
      latData := b, rtrace := s.rtrace ++ [if b then .pinHigh .data else .pinLow .data]
      phase := .running c k' l' } := by
  cases b
  · exact exec_of_done hp hm (runUop_pinLow_data hen hdir)
  · exact exec_of_done hp hm (runUop_pinHigh_data hen hdir)

/-- The clock's rise samples the driven data latch, unless the clock is high already (40_execution R100, 70_reset R164). -/
theorem exec_pinHigh_clk (hp : s.phase = .running c k l) (hm : commandProgram c s.mem k l = .uop (.pinHigh .clk) k' l')
    (hen : s.en = false) (hdata : s.dirData = true) (hclk : s.dirClk = true) :
    exec c s = .next { s with
      latClk := true, rtrace := s.rtrace ++ [.pinHigh .clk]
      wtrace := s.wtrace ++ (if s.latClk then [] else [.edge s.latData s.cs .manual none])
      phase := .running c k' l' } := by
  rw [exec_of_done hp hm (runUop_pinHigh_clk hen hclk)]
  cases hlat : s.latClk <;> simp [State.goto, hdata]

theorem exec_pinLow_clk (hp : s.phase = .running c k l) (hm : commandProgram c s.mem k l = .uop (.pinLow .clk) k' l')
    (hen : s.en = false) (hdir : s.dirClk = true) :
    exec c s = .next { s with
      latClk := false, rtrace := s.rtrace ++ [.pinLow .clk], phase := .running c k' l' } :=
  exec_of_done hp hm (runUop_pinLow_clk hen hdir)

theorem exec_enable_of_mstr (hp : s.phase = .running c k l) (hm : commandProgram c s.mem k l = .uop .enable k' l')
    (hmstr : s.mstr = true) :
    exec c s = .next { s with en := true, rtrace := s.rtrace ++ [.enable], phase := .running c k' l' } :=
  exec_of_done hp hm (runUop_enable_of_mstr hmstr)

end

/-! ### `wbit` (O34, O35) -/

/-- Settles O34, from the rule of each µop. -/
theorem wbitMicroOpsComplete : Obligations.WbitMicroOpsComplete := by
  unfold Obligations.WbitMicroOpsComplete
  intro b x s l
  exact ⟨fun hp => (exec_spinIdle hp rfl).1, fun hp => (exec_spinIdle hp rfl).2,
    fun hp => exec_disable_of_mstr hp rfl, fun hp => exec_dataUop hp rfl, fun hp => exec_pinHigh_clk hp rfl,
    fun hp => exec_pinLow_clk hp rfl, fun hp => exec_enable_of_mstr hp rfl⟩

/-- `wbit` from its disabled peripheral to its retire step: the manual edge carries the selected bit, and a clock that is
high already makes none (45_single_bit R129, 70_reset R164). -/
theorem execRun_wbit_of_disabled {b : Byte} {x : BitVec 3} {s : State} {l : Locals}
    (hp : s.phase = .running (.wbit b x) 2 l) (hen : s.en = false) (hmstr : s.mstr = true) (hdata : s.dirData = true)
    (hclk : s.dirClk = true) :
    execRun (.wbit b x) 5 s = .next { s with
      cp := s.cp + 1, en := true, latData := b.getLsbD x.toNat, latClk := false
      rtrace := s.rtrace ++
        [if b.getLsbD x.toNat then .pinHigh .data else .pinLow .data, .pinHigh .clk, .pinLow .clk, .enable]
      wtrace := s.wtrace ++ (if s.latClk then [] else [.edge (b.getLsbD x.toNat) s.cs .manual none])
      phase := .idle } := by
  rw [execRun_succ (exec_dataUop (b := b.getLsbD x.toNat) hp rfl hen hdata),
    execRun_succ (exec_pinHigh_clk rfl rfl (by exact hen) (by exact hdata) (by exact hclk)),
    execRun_succ (exec_pinLow_clk rfl rfl (by exact hen) (by exact hclk)),
    execRun_succ (exec_enable_of_mstr rfl rfl (by exact hmstr)), execRun_succ (exec_of_retire rfl rfl), commandRetire_eq]
  simp [execRun, Instr.nExt]

/-- Settles O35: the decode step, the drain's one poll, the disable, and the rest of the command. -/
theorem wbitEmitsItsBitIfTheClockLatchIsLow : Obligations.WbitEmitsItsBitIfTheClockLatchIsLow := by
  unfold Obligations.WbitEmitsItsBitIfTheClockLatchIsLow
  intro b x s hp hdone hidle hen hmstr hdata hclk
  have hcheck : commandCheck (.wbit b x) s = none := initialisedCheck_of_initDone hdone
  have htxe : s.txe = true := by simp [State.txe, (idle_iff.1 hidle).1]
  rw [execRun_succ (exec_idle_of_passed hp hcheck), execRun_succ ((exec_spinIdle rfl rfl).1 (by exact hidle)),
    execRun_succ (exec_disable_of_mstr rfl rfl (by exact hidle) (by exact hmstr) (by exact hclk)),
    execRun_wbit_of_disabled rfl rfl (by exact hmstr) (by exact hdata) (by exact hclk)]
  cases hlat : s.latClk <;> simp [afterPoll, hp, hen, hidle, htxe, hlat]

end Sys2Proof.Proofs
end

section
/-! The pixel-stream family (46_pixel_stream): what the pixel loop's test asks for once its condition is known, the µops of
`wpix`, and the counts of what a running stream queues and starts. -/

namespace Sys2Proof.Proofs

open Sys2Proof Sys2Proof.Machine Sys2Proof.Safety

/-! ### The pixel loop's test (46_pixel_stream R130) -/

section
variable {a : PixArgs} {l : Locals}

theorem pixHead_of_frame (hrem : 0 < l.rem) (hsbf : a.sbf = true) : pixHead a l = .uop .spinIdle 3 l := by
  simp [pixHead, hrem, hsbf]

theorem pixHead_of_no_frame (hrem : 0 < l.rem) (hsbf : a.sbf = false) : pixHead a l = .uop .spinTxe 9 l := by
  simp [pixHead, hrem, hsbf]

theorem pixHead_of_rem_eq_zero (hrem : l.rem = 0) : pixHead a l = .uop (.postBlock a.len.toNat) 17 l := by
  simp [pixHead, hrem]

/-- An admitted window opens the source and enters the pixel loop with the whole of it left (46_pixel_stream R130). -/
theorem pixProgram_open {mem : List Host.Cell} {w : List Byte} (hw : window mem a.addr a.len = some w) :
    pixProgram mem a 1 l = pixHead a { l with sigma := pixSource a w, rem := a.len.toNat } := by
  simp [pixProgram, hw]

end

section
variable {a : PixArgs} {c : Instr} {s : State} {k : Nat} {l l' : Locals}

/-- With a pixel left the test polls for the full drain before its framing bit (46_pixel_stream R130 step 3a). -/
theorem exec_pixHead_frame (hp : s.phase = .running c k l) (hm : commandProgram c s.mem k l = pixHead a l')
    (hrem : 0 < l'.rem) (hsbf : a.sbf = true) (hidle : s.idle = true) : exec c s = .next (afterPoll s c 3 l') :=
  (exec_spinIdle hp (hm.trans (pixHead_of_frame hrem hsbf))).1 hidle

/-- Without framing bits it polls for the pixel's first byte (46_pixel_stream R130 step 3b). -/
theorem exec_pixHead_byte (hp : s.phase = .running c k l) (hm : commandProgram c s.mem k l = pixHead a l')
    (hrem : 0 < l'.rem) (hsbf : a.sbf = false) (htxe : s.txe = true) : exec c s = .next (afterPoll s c 9 l') :=
  (exec_spinTxe hp (hm.trans (pixHead_of_no_frame hrem hsbf))).1 htxe

/-- Either poll stays current where it fails (40_execution R84). -/
theorem exec_pixHead_again (hp : s.phase = .running c k l) (hm : commandProgram c s.mem k l = pixHead a l')
    (hrem : 0 < l'.rem) (hfail : if a.sbf then s.idle = false else s.txe = false) :
    exec c s = .next (afterPoll s c k l) := by
  cases hsbf : a.sbf <;> rw [hsbf] at hfail
  · exact (exec_spinTxe hp (hm.trans (pixHead_of_no_frame hrem hsbf))).2 hfail
  · exact (exec_spinIdle hp (hm.trans (pixHead_of_frame hrem hsbf))).2 hfail

/-- With no pixel left it is the hook (46_pixel_stream R130 step 4). -/
theorem exec_pixHead_hook (hp : s.phase = .running c k l) (hm : commandProgram c s.mem k l = pixHead a l')
    (hrem : l'.rem = 0) : exec c s = .next (afterEvent s (.postBlock a.len.toNat) c 17 l') :=
  exec_postBlock hp (hm.trans (pixHead_of_rem_eq_zero hrem))

end

/-! ### The µops of `wpix` (O36 to O39) -/

/-- Settles O36, from the pixel loop's test on the opened source. -/
theorem wpixOpensItsSourceAndStarts : Obligations.WpixOpensItsSourceAndStarts := by
  unfold Obligations.WpixOpensItsSourceAndStarts
  intro a s l w
  refine ⟨fun hp => exec_select hp rfl, fun hp hw => ?_⟩
  have hm : commandProgram (.wpix a) s.mem 1 l = _ := pixProgram_open hw
  refine ⟨exec_pixHead_frame hp hm, exec_pixHead_byte hp hm, fun hlen => ?_, exec_pixHead_again hp hm⟩
  have h := exec_pixHead_hook hp hm hlen
  rwa [hlen] at h

/-- Settles O37, from the rule of each µop and, between two pixels, the pixel loop's test. -/
theorem wpixQueuesThreeChannelBytes : Obligations.WpixQueuesThreeChannelBytes := by
  unfold Obligations.WpixQueuesThreeChannelBytes
  intro a s l
  have hm : commandProgram (.wpix a) s.mem 2 l = pixHead a _ := rfl
  refine ⟨?_, ?_, ?_, fun hp hlt => exec_pixHead_frame hp hm (Nat.sub_pos_of_lt hlt),
    fun hp hlt => exec_pixHead_byte hp hm (Nat.sub_pos_of_lt hlt), fun hp hle => ?_, ?_,
    fun hp hlt => exec_pixHead_again hp hm (Nat.sub_pos_of_lt hlt), ?_⟩
  · rintro k (rfl | rfl | rfl) hp <;> exact (exec_spinTxe hp rfl).1
  · rintro k (rfl | rfl | rfl) hp <;> exact exec_setCfg hp rfl
  · rintro k k' v (⟨rfl, rfl, rfl⟩ | ⟨rfl, rfl, rfl⟩ | ⟨rfl, rfl, rfl⟩) hp <;> exact exec_writeTdr hp rfl
  · have hrem : l.rem - pixStep a = 0 := Nat.sub_eq_zero_of_le hle
    have h := exec_pixHead_hook hp hm hrem
    rwa [hrem] at h
  · rintro k (rfl | rfl | rfl) hp <;> exact (exec_spinTxe hp rfl).2
  · rintro k (rfl | rfl | rfl) hp <;> exact exec_writeTdr_disabled hp rfl

/-- Settles O38, from the rules of a framing bit's µops. -/
theorem wpixFramingBitMicroOpsComplete : Obligations.WpixFramingBitMicroOpsComplete := by
  unfold Obligations.WpixFramingBitMicroOpsComplete
  intro a s l
  exact ⟨fun hp => exec_disable_of_mstr hp rfl, fun hp => exec_dataUop hp rfl, fun hp => exec_pinHigh_clk hp rfl,
    fun hp => exec_pinLow_clk hp rfl, fun hp => exec_enable_of_mstr hp rfl⟩

/-- Settles O39, from the post-block loop's test and the rule of each µop. -/
theorem wpixDrainsBeforeItsRelease : Obligations.WpixDrainsBeforeItsRelease := by
  unfold Obligations.WpixDrainsBeforeItsRelease
  intro a s l c cs
  refine ⟨fun hp => (exec_postHead hp rfl).1, fun hp => exec_setCfg hp rfl,
    fun hp hpost => exec_writeTdr hp (congrArg (Micro.uop · 20 l) (postWrite_of_cons hpost)),
    fun hp htail => by simpa [htail] using (exec_postHead hp rfl).1,
    fun hp htail => by simpa [htail] using (exec_postHead hp rfl).1, fun hp => exec_release hp rfl, ?_,
    fun hp => exec_writeTdr_disabled hp rfl⟩
  rintro k p (⟨rfl, rfl⟩ | ⟨rfl, rfl⟩) hp
  · exact (exec_postHead hp rfl).2
  · exact (exec_postHead hp rfl).2

/-! ### What a stream still has to queue and start (O56) -/

@[simp] theorem queuedValues_append (r₁ r₂ : List REvent) :
    queuedValues (r₁ ++ r₂) = queuedValues r₁ ++ queuedValues r₂ := List.flatMap_append

@[simp] theorem queuedValues_nil : queuedValues [] = [] := rfl

@[simp] theorem queuedValues_cons (e : REvent) (r : List REvent) :
    queuedValues (e :: r) = queueValue e ++ queuedValues r := List.flatMap_cons

/-- A completed µop records one event: a spin its poll, any other µop what the script has for it (40_execution
R86-R99). -/
theorem rtrace_runUop {u : Uop} {s t : State} (hd : runUop u s = .done t) :
    t.rtrace = s.rtrace ++ uopEvents u s.w16 ∨
      uopEvents u s.w16 = [] ∧ ∃ txe idle, t.rtrace = s.rtrace ++ [.poll txe idle] := by
  have h := runUop_done hd
  cases u
  case spinTxe | spinIdle => obtain ⟨-, rfl⟩ := h; exact .inr ⟨rfl, _, _, rfl⟩
  all_goals exact .inl (by simp_all [uopEvents])

/-- What a step from position `k` to `k'` does to the counts, `e` being the events it records: before the hook it takes
what it queues and starts from what is left, and calls the hook with nothing left; from the hook on it calls no other
(46_pixel_stream R131). -/
def KeepsCounts (a : PixArgs) (k : Nat) (l : Locals) (k' : Nat) (l' : Locals) (e : List REvent) : Prop :=
  (k ≤ 16 →
    (queuedValues e).length + channelLeft a k' l' = channelLeft a k l ∧
    (e.filter (fun x => x == .disable)).length + framesLeft a k' l' = framesLeft a k l ∧
    (∀ v ∈ queuedValues e, v ∈ (pixBytes a l.sigma).map (·.setWidth 16)) ∧
    (17 ≤ k' → k' = 17 ∧ e = [.postBlock a.len.toNat] ∧ channelLeft a k l = 0 ∧ framesLeft a k l = 0) ∧
    (.select ∈ e → k = 0) ∧ .release ∉ e) ∧
  (17 ≤ k → 17 ≤ k' ∧ (∀ n, .postBlock n ∉ e) ∧ .disable ∉ e ∧ .select ∉ e ∧ (.release ∈ e → k = 21))

section
variable {a : PixArgs} {k k' : Nat} {l l' : Locals}

/-- A step that stays at its position and records nothing. -/
theorem keepsCounts_refl : KeepsCounts a k l k l [] := by
  refine ⟨fun hk => ⟨by simp, by simp, by simp, by omega, by simp, by simp⟩, fun hk => ?_⟩
  simpa using hk

/-- A poll and a fault are not counted: a step that records one does what it would do without. -/
theorem keepsCounts_of_not_counted {x : REvent} (hx : (∃ txe idle, x = .poll txe idle) ∨ ∃ c, x = .fault c)
    (h : KeepsCounts a k l k' l' []) : KeepsCounts a k l k' l' [x] := by
  obtain ⟨txe, idle, rfl⟩ | ⟨c, rfl⟩ := hx <;> simp_all [KeepsCounts, queueValue]

/-- The pixel loop's test: each pixel left has its three bytes and its framing bit to come, and with no pixel left
nothing is left (46_pixel_stream R130, R131). -/
theorem pixHead_keepsCounts {l₀ : Locals} {u : Uop} (hk : k ≤ 2) (hmod : l.rem % pixStep a = 0)
    (hchannel : channelLeft a k l₀ = 3 * (l.rem / pixStep a))
    (hframe : framesLeft a k l₀ = if a.sbf = false then 0 else l.rem / pixStep a)
    (h : pixHead a l = .uop u k' l') (w16 : Bool) : KeepsCounts a k l₀ k' l' (uopEvents u w16) := by
  have hnext (hrem : 0 < l.rem) : l.rem / pixStep a = (l.rem - pixStep a) / pixStep a + 1 :=
    Nat.div_eq_sub_div (pixStep_pos a) (Nat.le_of_dvd hrem (Nat.dvd_of_mod_eq_zero hmod))
  refine ⟨fun _ => ?_, by omega⟩
  rw [hchannel, hframe]
  obtain ⟨rfl, ⟨hrem, hsbf, rfl, rfl⟩ | ⟨hrem, hsbf, rfl, rfl⟩ | ⟨hrem, rfl, rfl⟩⟩ := pixHead_uop h
  · simp [uopEvents, channelLeft, framesLeft, hsbf, hnext hrem, Nat.mul_add]
  · simp [uopEvents, channelLeft, framesLeft, hsbf, hnext hrem, Nat.mul_add]
  · simp [uopEvents, queueValue, channelLeft, framesLeft, hrem]

/-- The post-block loop's test stands after the hook and records nothing of its own. -/
theorem postHead_keepsCounts {l₀ : Locals} {u : Uop} (hk : 17 ≤ k) (h : postHead 18 21 l = .uop u k' l') (w16 : Bool) :
    KeepsCounts a k l₀ k' l' (uopEvents u w16) := by
  refine ⟨by omega, fun _ => ?_⟩
  obtain ⟨-, ⟨-, rfl, rfl⟩ | ⟨-, rfl, rfl⟩⟩ := postHead_uop h <;> simp [uopEvents]

theorem pixProgram_keepsCounts {mem : List Host.Cell} {u : Uop} (hl : localsOk (.wpix a) k l)
    (h : pixProgram mem a k l = .uop u k' l') (w16 : Bool) : KeepsCounts a k l k' l' (uopEvents u w16) := by
  obtain ⟨hlen, hrem, hsbf, -⟩ := hl
  unfold pixProgram at h
  split at h
  -- the pixel loop's test, at 1 and 2; the post-block loop's, at 17 and 20
  case h_2 =>
    split at h
    · cases h
    · exact pixHead_keepsCounts (by omega) hlen rfl rfl h w16
  case h_3 =>
    obtain ⟨hmod, -⟩ := hrem (by omega)
    exact pixHead_keepsCounts le_rfl (Nat.sub_mod_eq_zero_of_mod_eq (by rw [hmod, Nat.mod_self])) rfl rfl h w16
  case h_18 | h_21 => exact postHead_keepsCounts (by omega) h w16
  case h_23 => cases h
  all_goals cases h
  -- the disable of a framing bit, at 3, and its data pin, at 4; the channel bytes, at 10, 13 and 16
  case h_4 =>
    have hsbf : a.sbf = true := hsbf (by omega)
    simp [KeepsCounts, uopEvents, queueValue, channelLeft, framesLeft, hsbf, Nat.add_comm]
  case h_5 =>
    rw [uopEvents_dataUop]
    cases selectedBit a.fbyte a.fbidx <;>
      simp [KeepsCounts, dataEvent, queueValue, channelLeft, framesLeft]
  case h_11 | h_14 | h_17 =>
    simp [KeepsCounts, pixWrite, pixBytes, zext16, uopEvents, queueValue, channelLeft, framesLeft]
    omega
  all_goals simp [KeepsCounts, postWrite, uopEvents, queueValue, channelLeft, framesLeft]

end

/-- A transition of a stream that goes on running records events that keep the counts. -/
def StreamKeepsCounts (s t : State) : Prop :=
  ∀ (a : PixArgs) (k k' : Nat) (l l' : Locals), s.phase = .running (.wpix a) k l →
    t.phase = .running (.wpix a) k' l' → ∃ e, t.rtrace = s.rtrace ++ e ∧ KeepsCounts a k l k' l' e

theorem streamKeepsCounts_of_same_phase {s t : State} {e : List REvent} (hphase : t.phase = s.phase)
    (he : t.rtrace = s.rtrace ++ e) (h : ∀ a k l, KeepsCounts a k l k l e) : StreamKeepsCounts s t := by
  intro a k k' l l' hp hp'
  obtain ⟨-, rfl, rfl⟩ := Phase.running.inj (hp.symm.trans (hphase.symm.trans hp'))
  exact ⟨e, he, h a k l⟩

theorem streamKeepsCounts_transition {s t : State} (h : Progressing s) (ht : Transition s t) :
    StreamKeepsCounts s t := by
  cases ht with
  | fault c =>
    exact streamKeepsCounts_of_same_phase rfl rfl fun _ _ _ => keepsCounts_of_not_counted (.inr ⟨c, rfl⟩) keepsCounts_refl
  | spin =>
    exact streamKeepsCounts_of_same_phase rfl rfl fun _ _ _ =>
      keepsCounts_of_not_counted (.inl ⟨_, _, rfl⟩) keepsCounts_refl
  | shift | load =>
    exact streamKeepsCounts_of_same_phase rfl (List.append_nil _).symm fun _ _ _ => keepsCounts_refl
  | start _ _ hidle =>
    intro a k k' l l' hp
    cases hp.symm.trans hidle
  | retire =>
    rw [commandRetire_eq]
    intro a k k' l l' _ hp'
    cases hp'
  | uop _ hphase hm hd =>
    intro a k k' l l' hp hp'
    cases hphase.symm.trans hp
    cases hp'
    have hcounts := pixProgram_keepsCounts (h _ _ _ hp) hm s.w16
    obtain he | ⟨hnil, txe, idle, he⟩ := rtrace_runUop hd
    · exact ⟨_, he, hcounts⟩
    · exact ⟨_, he, keepsCounts_of_not_counted (.inl ⟨txe, idle, rfl⟩) (hnil ▸ hcounts)⟩

/-! ### What a stream's script counts -/

theorem queuedValues_bytesEvents (bs : List Byte) : queuedValues (bytesEvents bs) = bs.map zext16 := by
  induction bs with
  | nil => rfl
  | cons b bs ih => rw [bytesEvents_cons, queuedValues_append, ih]; rfl

/-- A framing bit queues nothing (45_single_bit R129). -/
theorem queuedValues_pixFrame (a : PixArgs) : queuedValues (pixFrame a) = [] := by
  unfold pixFrame bitEvents dataEvent
  repeat' split
  all_goals rfl

theorem length_queuedValues_pixEvents (a : PixArgs) (σ : Config.PsState) (n : Nat) :
    (queuedValues (pixEvents a σ n)).length = 3 * n := by
  induction n generalizing σ with
  | zero => rfl
  | succ n ih =>
    simp [pixEvents, queuedValues_pixFrame, queuedValues_bytesEvents, pixBytes, ih]
    omega

/-- The events of a write body, and those of a framing bit after its disable (43_queuing R123, 45_single_bit R129). -/
def isBodyEvent (e : REvent) : Bool :=
  match e with
  | .cfg _ _ => true
  | .queue _ _ => true
  | .pinHigh _ => true
  | .pinLow _ => true
  | .enable => true
  | _ => false

theorem isBodyEvent_of_mem_bytesEvents {e : REvent} {bs : List Byte} (h : e ∈ bytesEvents bs) : isBodyEvent e = true := by
  obtain ⟨b, -, he⟩ := List.mem_flatMap.1 h
  obtain rfl | rfl := List.mem_pair.1 he <;> rfl

section
variable {p : REvent → Bool} (hbody : ∀ e, isBodyEvent e = true → p e = false)
include hbody

theorem filter_of_body {r : List REvent} (h : ∀ e ∈ r, isBodyEvent e = true) : r.filter p = [] :=
  List.filter_eq_nil_iff.2 fun e he => by simp [hbody e (h e he)]

theorem filter_bytesEvents (bs : List Byte) : (bytesEvents bs).filter p = [] :=
  filter_of_body hbody fun _ => isBodyEvent_of_mem_bytesEvents

theorem filter_pixFrame (a : PixArgs) :
    (pixFrame a).filter p = if a.sbf then [REvent.disable].filter p else [] := by
  unfold pixFrame
  split
  · generalize selectedBit a.fbyte a.fbidx = b
    have hrest : ([dataEvent b, .pinHigh .clk, .pinLow .clk, .enable]).filter p = [] :=
      filter_of_body hbody (by cases b <;> decide)
    change ([REvent.disable] ++ _).filter p = _
    rw [List.filter_append, hrest, List.append_nil]
  · rfl

/-- What is left of `n` pixels is their framing bits' disables (46_pixel_stream R130 step 3). -/
theorem filter_pixEvents (a : PixArgs) (σ : Config.PsState) (n : Nat) :
    (pixEvents a σ n).filter p = (List.replicate n (if a.sbf then [REvent.disable].filter p else [])).flatten := by
  induction n generalizing σ with
  | zero => rfl
  | succ n ih => simp [pixEvents, filter_bytesEvents hbody, filter_pixFrame hbody, ih, List.replicate_succ]

/-- What is left of a stream's script: its select, its framing bits' disables, the hook and the release. -/
theorem filter_script_wpix {a : PixArgs} {mem : List Host.Cell} {w : List Byte}
    (hw : window mem a.addr a.len = some w) (w16 : Bool) :
    (script (.wpix a) mem w16).filter p =
      [REvent.select].filter p ++
        ((List.replicate (a.len.toNat / pixStep a) (if a.sbf then [REvent.disable].filter p else [])).flatten ++
          ([REvent.postBlock a.len.toNat].filter p ++ [REvent.release].filter p)) := by
  simp only [script, hw]
  change ([REvent.select] ++ (_ ++ ([REvent.postBlock a.len.toNat] ++ (_ ++ [REvent.release])))).filter p = _
  simp only [List.filter_append, filter_pixEvents hbody, filter_bytesEvents hbody, List.nil_append]

end

theorem length_queuedValues_script_wpix {a : PixArgs} {mem : List Host.Cell} {w : List Byte}
    (hw : window mem a.addr a.len = some w) (w16 : Bool) :
    (queuedValues (script (.wpix a) mem w16)).length =
      3 * (a.len.toNat / pixStep a) + (Config.postBlock a.tsel a.len.toNat).length := by
  simp [script, hw, tailEvents, queueValue, length_queuedValues_pixEvents, queuedValues_bytesEvents]

/-- Settles O56: each µop of the stream keeps the counts, a poll and a fault are not counted, and SHE records nothing; the
script's counts are those of its parts. -/
theorem pixelStreamQueuesThreeBytesAPixel : Obligations.PixelStreamQueuesThreeBytesAPixel := by
  unfold Obligations.PixelStreamQueuesThreeBytesAPixel
  refine ⟨fun a l => ⟨rfl, by cases hsbf : a.sbf <;> simp [framesLeft, pixStep, hsbf]⟩, ?_, ?_⟩
  · intro s t a k k' l l' h hp hstep
    exact of_step (P := StreamKeepsCounts s) hstep (fun _ hu => hu) (fun _ => streamKeepsCounts_transition h)
      a k k' l l' hp
  · intro a mem w16 w hw
    refine ⟨length_queuedValues_script_wpix hw w16, ?_, ?_, ?_, ?_⟩ <;>
      rw [filter_script_wpix (fun e he => by cases e <;> cases he <;> rfl) hw]
    · cases hsbf : a.sbf <;> simp [pixStep]
    all_goals simp

end Sys2Proof.Proofs
end

section
/-! The exceptions family (60_exceptions): after a fault the shift engine alone moves, and what it holds drains. -/

namespace Sys2Proof.Proofs

open Sys2Proof Sys2Proof.Machine Sys2Proof.Safety

section
variable {s : State}

/-! ### After a fault (O15) -/

/-- Once FAULT is set SEQ has no step, so the block's step is SHE's and uses no scheduling choice (40_execution R104,
60_exceptions R136). -/
theorem sheMoves_of_faulted {t : State} (hf : s.fault ≠ none) (h : step s = .next t) : SheMoves s t := by
  have hseq : ∀ u, seqStep s ≠ .next u := fun u hu => by
    obtain ⟨hunfaulted, -⟩ := seqStep_effect hu
    exact hf hunfaulted
  obtain ⟨-, hu⟩ | ⟨-, -, u, hu, -⟩ | ⟨-, -, ⟨u, hu⟩, -⟩ | ⟨hr, -, rfl⟩ := agentsStep_next h
  · exact absurd hu (hseq t)
  · exact absurd hu (hseq u)
  · exact absurd hu (hseq u)
  · exact ⟨hr, rfl⟩

/-- SHE writes TXH, SR, PDATA and WTRACE only (40_execution R102, R103). -/
theorem sheMoves_frame {t : State} (h : SheMoves s t) :
    t = { s with txh := t.txh, sr := t.sr, pdata := t.pdata, wtrace := t.wtrace } := by
  obtain ⟨hr, rfl⟩ := h
  obtain ⟨r, -, e⟩ | ⟨w, -, -, e⟩ := sheStep_cases hr <;> rw [e]
  · rfl
  · rfl

/-! ### The drain (O45) -/

theorem engineOk_sheStep (h : EngineOk s) (hr : s.sheReady = true) : EngineOk (sheStep s) :=
  engineOk_transition h (transition_of_sheMoves ⟨hr, rfl⟩)

theorem drainSteps_of_idle (h : s.idle = true) : drainSteps s = 0 := by
  obtain ⟨htxh, hsr⟩ : s.txh = none ∧ s.sr = none := by simpa [State.idle] using h
  simp [drainSteps, htxh, hsr]

/-- A LOAD trades the word's own step for its bits (40_execution R102). -/
theorem drainSteps_load {w : TxWord} (hsr : s.sr = none) (htxh : s.txh = some w) :
    drainSteps s = drainSteps (s.load w) + 1 := by
  simp [drainSteps, State.load, hsr, htxh, Nat.add_comm]

/-- A SHIFT takes one bit off SR (40_execution R103). -/
theorem drainSteps_shift {r : ShiftWord} (hsr : s.sr = some r) (hk : 1 ≤ r.k) :
    drainSteps s = drainSteps (s.shift r) + 1 := by
  simp only [drainSteps, State.shift, hsr]
  by_cases hlast : r.k ≤ 1
  · simp only [if_pos hlast]
    omega
  · simp only [if_neg hlast]
    omega

/-- Each step of SHE brings the drain one step nearer. -/
theorem drainSteps_sheStep (h : EngineOk s) (hr : s.sheReady = true) : drainSteps s = drainSteps (sheStep s) + 1 := by
  obtain ⟨-, hshift, -⟩ := h
  obtain ⟨r, hsr, e⟩ | ⟨w, hsr, htxh, e⟩ := sheStep_cases hr <;> rw [e]
  · obtain ⟨-, hk, -⟩ := hshift r hsr
    exact drainSteps_shift hsr hk
  · exact drainSteps_load hsr htxh

/-- SHE's steps to the drain, counted down: with none left it is drained, with one more it is ready and its step leaves the
others. -/
theorem sheStep_iterate_drains {m : Nat} (h : EngineOk s) (hm : drainSteps s = m) :
    (sheStep^[m] s).idle = true ∧ ∀ n, n < m → (sheStep^[n] s).sheReady = true := by
  induction m generalizing s with
  | zero =>
    have hrest : s.sheReady = false := by
      by_contra hr
      have hcount := drainSteps_sheStep h (by simpa using hr)
      omega
    exact ⟨idle_of_not_sheReady h hrest, fun n hn => absurd hn n.not_lt_zero⟩
  | succ m ih =>
    have hr : s.sheReady = true := by
      by_contra hrest
      have hcount := drainSteps_of_idle (idle_of_not_sheReady h (by simpa using hrest))
      omega
    have hcount := drainSteps_sheStep h hr
    obtain ⟨hidle, hready⟩ := ih (engineOk_sheStep h hr) (by omega)
    refine ⟨hidle, fun n hn => ?_⟩
    cases n with
    | zero => exact hr
    | succ n => exact hready n (by omega)

end

/-- Settles O15: SHE's is the only step left, and it writes its own four fields. -/
theorem faultIsSticky : Obligations.FaultIsSticky := by
  unfold Obligations.FaultIsSticky
  intro s t hf h
  have hmoves := sheMoves_of_faulted hf h
  exact ⟨hmoves, sheMoves_frame hmoves⟩

/-- Settles O45, by induction on the steps left to the drain. -/
theorem shiftEngineDrainsInBoundedSteps : Obligations.ShiftEngineDrainsInBoundedSteps := by
  unfold Obligations.ShiftEngineDrainsInBoundedSteps
  intro s h
  exact sheStep_iterate_drains h rfl

end Sys2Proof.Proofs
end
